-- ==== Sys2Proof/Word.lean ====
section
/-! DEFINITION. The bit widths of UFR's data: bytes, words and IEEE-754 single-precision patterns (spec R11, R92). -/

namespace Sys2Proof

/-- A byte: "an unsigned integer 0 to 255, eight bits" (R11). -/
abbrev Byte := BitVec 8

/-- A word: a 16-bit unsigned integer (R11). -/
abbrev Word := BitVec 16

/-- A decoded float is carried as its 32-bit pattern, never as a value of a float type (R92, D18). -/
abbrev Pattern := BitVec 32

end Sys2Proof
end

