-- ==== Sys2Proof/Config.lean ====
section
/-! DEFINITION. What is fixed for the machine: the constants of R8 and R9, the type of a timestamp (R10, D3), and the
free values: the three text forms that R10 leaves open (FLOAT_FMT, LIST_FMT, SUMMARY_FMT). -/

namespace Sys2Proof

/-- `FRAME_BYTES` (R8): bytes of a wire frame the parser reads. -/
@[simp] abbrev Config.frameBytes : Nat := 114

/-- `FRAME_WORDS` (R8): 16-bit words in a frame. -/
@[simp] abbrev Config.frameWords : Nat := 57

/-- `CHK_WORDS` (R8): words folded into the checksum. -/
@[simp] abbrev Config.chkWords : Nat := 56

/-- `CHK_BYTES` (R8): bytes folded into the checksum. -/
@[simp] abbrev Config.chkBytes : Nat := 112

/-- `CHK_INDEX` (R8): index of the word that holds the received checksum. -/
@[simp] abbrev Config.chkIndex : Nat := 56

/-- `NUM_IDS` (R8): field identifiers, 0 to 33. -/
@[simp] abbrev Config.numIds : Nat := 34

/-- `ID_RESERVED` (R8): the identifier that is "unused/reserved". -/
@[simp] abbrev Config.idReserved : Nat := 31

/-- `MAX_BUF` (R9): the largest number of bytes the accumulation buffer ever holds. -/
@[simp] abbrev Config.maxBuf : Nat := 65535

/-- `EVENTS_PER_FRAME` (R9): the field events of one successful decode pass. -/
@[simp] abbrev Config.eventsPerFrame : Nat := 32

/-- `ID_BITS` (R9, D9): the bits of a field identifier. -/
@[simp] abbrev Config.idBits : Nat := 6

/-- `PAYLOAD_BITS` (R9, D8): the widest payload. -/
@[simp] abbrev Config.payloadBits : Nat := 96

/-- `TS_BITS` (R10, D3): the width offered for a timestamp in a bit-level model. -/
@[simp] abbrev Config.tsBits : Nat := 64

/-- The type of a timestamp. DESIGN CHOICE (log 1), unsafe: R10 leaves the type open and offers 64 bits; the model
copies times and never adds or orders them. -/
abbrev Time := BitVec Config.tsBits

/-- The text forms R10 leaves open, as arguments of the rendering functions: a claim about text holds for every
value of this structure or names the one it assumes (R146, R147, R180). -/
structure TextFormats where
  /-- `FLOAT_FMT`: the text of a 32-bit pattern (R146). -/
  floatFmt : Pattern → String
  /-- `LIST_FMT`: what stands between the square brackets of the sensor timing list (R147). -/
  listFmt : Word → Word → Word → Word → Word → Word → String
  /-- `SUMMARY_FMT`: the text of the summary from length, message type and validity (R180). -/
  summaryFmt : Word → Word → Bool → String

/-- Free value (log 2): the machine's `FLOAT_FMT` (R146). It has no body, so nothing can be proved of its text. -/
opaque Config.floatFmt : Pattern → String

/-- Free value (log 2): the machine's `LIST_FMT` (R147). -/
opaque Config.listFmt : Word → Word → Word → Word → Word → Word → String

/-- Free value (log 2): the machine's `SUMMARY_FMT` (R180). -/
opaque Config.summaryFmt : Word → Word → Bool → String

/-- The machine's own text forms, all three free values. -/
def Config.formats : TextFormats :=
  { floatFmt := Config.floatFmt, listFmt := Config.listFmt, summaryFmt := Config.summaryFmt }

end Sys2Proof
end

