-- ==== Sys2Proof/Syntax.lean ====
section
/-! DEFINITION. The whole syntax: the closed enumeration of field identifiers (R50), the frame handed to the parser
(R15, R69), what is presented to UFR in one step (R47, D2), and `Instr`, one constructor for each row of
spec/opcode_table.json. -/

namespace Sys2Proof

/-- The 34 field identifiers of R50, in the order of their numbers; their codes are `FieldId.code`. -/
inductive FieldId where
  /-- 0 `SUMMARY`: the whole-message summary (R137). -/
  | summary
  /-- 1 `LENGTH`: length (R106). -/
  | length
  /-- 2 `MSG_TYPE`: message type (R107). -/
  | msgType
  /-- 3 `DEPTH`: depth (R108). -/
  | depth
  /-- 4 `WATER_PRESSURE`: water pressure (R109). -/
  | waterPressure
  /-- 5 `WATER_TEMP`: water temperature (R110). -/
  | waterTemp
  /-- 6 `ENCL_TEMP`: enclosure temperature (R111). -/
  | enclTemp
  /-- 7 `ENCL_HUMIDITY`: enclosure humidity (R112). -/
  | enclHumidity
  /-- 8 `AIR_PRESSURE`: air pressure (R113). -/
  | airPressure
  /-- 9 `HEADING`: heading (R114). -/
  | heading
  /-- 10 `HEADING_TO_TARGET`: heading to target (R115). -/
  | headingToTarget
  /-- 11 `DISTANCE_TO_TARGET`: distance to target (R116). -/
  | distanceToTarget
  /-- 12 `JOURNEY_COURSE`: journey course (R117). -/
  | journeyCourse
  /-- 13 `JOURNEY_DISTANCE`: journey distance (R118). -/
  | journeyDistance
  /-- 14 `DISPLAY_LABEL`: display label (R119). -/
  | displayLabel
  /-- 15 `MAKO_SECONDS_ON`: Mako seconds on (minutes label) (R120). -/
  | makoSecondsOn
  /-- 16 `MAKO_USER_ACTION`: Mako user action (R121). -/
  | makoUserAction
  /-- 17 `BAD_CHECKSUM_COUNT`: bad checksum count (R122). -/
  | badChecksumCount
  /-- 18 `USB_VOLTAGE`: USB voltage (R123). -/
  | usbVoltage
  /-- 19 `USB_CURRENT`: USB current (R124). -/
  | usbCurrent
  /-- 20 `TARGET_CODE`: target code (R125). -/
  | targetCode
  /-- 21 `SENSOR_TIMING`: sensor timing block (R126). -/
  | sensorTiming
  /-- 22 `ACCEL`: accelerometer X/Y/Z (R127). -/
  | accel
  /-- 23 `GYRO`: gyroscope X/Y/Z (R128). -/
  | gyro
  /-- 24 `LIN_ACCEL`: linear acceleration X/Y/Z (R129). -/
  | linAccel
  /-- 25 `ROT_ACCEL`: rotational acceleration X/Y/Z (R130). -/
  | rotAccel
  /-- 26 `GOOD_CHECKSUM_COUNT`: good checksum count (R131). -/
  | goodChecksumCount
  /-- 27 `WAYMARKER_ID`: waymarker id (R132). -/
  | waymarkerId
  /-- 28 `WAYMARKER_LABEL`: waymarker label (R133). -/
  | waymarkerLabel
  /-- 29 `DIRECTION_METRIC`: direction metric label (R134). -/
  | directionMetric
  /-- 30 `FLAGS`: flags (R135). -/
  | flags
  /-- 31 `RESERVED_31`: unused/reserved (R60). -/
  | reserved31
  /-- 32 `CHECKSUM_OK`: checksum OK (R136). -/
  | checksumOk
  /-- 33 `CHECKSUM_ERROR`: checksum ERROR (R136). -/
  | checksumError
  deriving DecidableEq, Repr

/-- A Frame as handed from assembler to parser: the whole buffer, "which may be longer or shorter than 114 bytes"
(R15, R69, C1), with `frame_start` and `frame_end`. -/
structure Frame where
  /-- `frame_bytes` (R97). -/
  bytes : List Byte
  /-- `frame_start`: the `ss` of the first byte (R67, R69). -/
  start : Time
  /-- `frame_end`: the `es` of the completing byte (R69). -/
  stop : Time
  deriving DecidableEq, Repr

/-- What is presented to UFR in one step. A byte event selects FEED and the reset input selects RESET; neither has an
opcode (D2). The other five are the model's own way of running one row of the table by itself (DESIGN CHOICE, log 3,
unsafe): the byte source never presents them, and FEED uses those rows inside itself. -/
inductive Request where
  /-- A byte event (R47): the byte, and the times its observation started and ended. -/
  | byteEvent (byte : Byte) (ss es : Time)
  /-- The reset input (R74, D2). -/
  | resetInput
  /-- The row of the identifier map (R50) with this 6-bit `field_id`, on a frame in the parser's hands. -/
  | tableRow (fieldId : BitVec Config.idBits) (frame : Frame)
  /-- A call of `DECODE` (R97). -/
  | callDecode (frame : Frame)
  /-- A call of `CHK_COMPUTE` (R81) on a byte range. -/
  | callChkCompute (bytes : List Byte)
  /-- A call of `CHK_VALIDATE` (R83). -/
  | callChkValidate (frame : List Byte)
  /-- A call of `F32_DECODE` (R89). -/
  | callF32Decode (wordLo wordHi : Word)
  deriving DecidableEq, Repr

/-- The requests a byte source presents (R203, D2): byte events and the reset input. -/
def Request.fromSource : Request → Bool
  | .byteEvent _ _ _ => true
  | .resetInput => true
  | .tableRow _ _ => false
  | .callDecode _ => false
  | .callChkCompute _ => false
  | .callChkValidate _ => false
  | .callF32Decode _ _ => false

/-- Why a request is no instruction. -/
inductive DecodeError where
  /-- The identifiers 34 to 63 "do not exist" (R60). Safe. -/
  | unassignedIdentifier (fieldId : BitVec Config.idBits)
  /-- The frame is shorter than the row's or function's domain: 114 bytes (R83, R99), 2 for DECODE (R97). Safe. -/
  | frameTooShort (length : Nat)
  /-- A frame never holds more than 65535 bytes (R9, R97). Safe. -/
  | frameTooLong (length : Nat)
  /-- CHK_COMPUTE is defined on ranges of even length only (R82, D26, U17). Safe (log 8). -/
  | oddChecksumRange (length : Nat)
  deriving DecidableEq, Repr

/-- The 40 rows of spec/opcode_table.json. A field row's operand is the frame of the pass it runs in (R106 to R137:
`fs`, `fe` and the words `W(i)` are the frame's). The operand of CHK_COMPUTE is a sequence of `2n` bytes (R81), held as
pairs, low byte first, so that an odd range is no operand (R82, U17; log 8). -/
inductive Instr where
  /-- `SUMMARY`, identifier 0 (R137). -/
  | summary (frame : Frame)
  /-- `LENGTH`, identifier 1 (R106). -/
  | length (frame : Frame)
  /-- `MSG_TYPE`, identifier 2 (R107). -/
  | msgType (frame : Frame)
  /-- `DEPTH`, identifier 3 (R108). -/
  | depth (frame : Frame)
  /-- `WATER_PRESSURE`, identifier 4 (R109). -/
  | waterPressure (frame : Frame)
  /-- `WATER_TEMP`, identifier 5 (R110). -/
  | waterTemp (frame : Frame)
  /-- `ENCL_TEMP`, identifier 6 (R111). -/
  | enclTemp (frame : Frame)
  /-- `ENCL_HUMIDITY`, identifier 7 (R112). -/
  | enclHumidity (frame : Frame)
  /-- `AIR_PRESSURE`, identifier 8 (R113). -/
  | airPressure (frame : Frame)
  /-- `HEADING`, identifier 9 (R114). -/
  | heading (frame : Frame)
  /-- `HEADING_TO_TARGET`, identifier 10 (R115). -/
  | headingToTarget (frame : Frame)
  /-- `DISTANCE_TO_TARGET`, identifier 11 (R116). -/
  | distanceToTarget (frame : Frame)
  /-- `JOURNEY_COURSE`, identifier 12 (R117). -/
  | journeyCourse (frame : Frame)
  /-- `JOURNEY_DISTANCE`, identifier 13 (R118). -/
  | journeyDistance (frame : Frame)
  /-- `DISPLAY_LABEL`, identifier 14 (R119). -/
  | displayLabel (frame : Frame)
  /-- `MAKO_SECONDS_ON`, identifier 15 (R120). -/
  | makoSecondsOn (frame : Frame)
  /-- `MAKO_USER_ACTION`, identifier 16 (R121). -/
  | makoUserAction (frame : Frame)
  /-- `BAD_CHECKSUM_COUNT`, identifier 17 (R122). -/
  | badChecksumCount (frame : Frame)
  /-- `USB_VOLTAGE`, identifier 18 (R123). -/
  | usbVoltage (frame : Frame)
  /-- `USB_CURRENT`, identifier 19 (R124). -/
  | usbCurrent (frame : Frame)
  /-- `TARGET_CODE`, identifier 20 (R125). -/
  | targetCode (frame : Frame)
  /-- `SENSOR_TIMING`, identifier 21 (R126). -/
  | sensorTiming (frame : Frame)
  /-- `ACCEL`, identifier 22 (R127). -/
  | accel (frame : Frame)
  /-- `GYRO`, identifier 23 (R128). -/
  | gyro (frame : Frame)
  /-- `LIN_ACCEL`, identifier 24 (R129). -/
  | linAccel (frame : Frame)
  /-- `ROT_ACCEL`, identifier 25 (R130). -/
  | rotAccel (frame : Frame)
  /-- `GOOD_CHECKSUM_COUNT`, identifier 26 (R131). -/
  | goodChecksumCount (frame : Frame)
  /-- `WAYMARKER_ID`, identifier 27 (R132). -/
  | waymarkerId (frame : Frame)
  /-- `WAYMARKER_LABEL`, identifier 28 (R133). -/
  | waymarkerLabel (frame : Frame)
  /-- `DIRECTION_METRIC`, identifier 29 (R134). -/
  | directionMetric (frame : Frame)
  /-- `FLAGS`, identifier 30 (R135). -/
  | flags (frame : Frame)
  /-- `RESERVED_31`, identifier 31 (R60). -/
  | reserved31 (frame : Frame)
  /-- `CHECKSUM_OK`, identifier 32 (R136). -/
  | checksumOk (frame : Frame)
  /-- `CHECKSUM_ERROR`, identifier 33 (R136). -/
  | checksumError (frame : Frame)
  /-- `FEED` (R66): the byte event's three fields. -/
  | feed (byte : Byte) (ss es : Time)
  /-- `RESET` (R74). -/
  | reset
  /-- `DECODE` (R97). -/
  | decode (frame : Frame)
  /-- `CHK_COMPUTE` (R81): the byte range as pairs (low byte, high byte). -/
  | chkCompute (pairs : List (Byte × Byte))
  /-- `CHK_VALIDATE` (R83): a byte sequence of at least 114 bytes. -/
  | chkValidate (frame : List Byte)
  /-- `F32_DECODE` (R89). -/
  | f32Decode (wordLo wordHi : Word)
  deriving DecidableEq, Repr

end Sys2Proof
end

