-- ==== Sys2Proof/WellFormed.lean ====
section
/-! DEFINITION. Which instructions are well formed: every operand inside the domain its rule gives it. -/

namespace Sys2Proof

/-- The domain of a field row's frame: the guard of R98 has passed, so that all 57 words exist (R99), and the buffer
never holds more than 65535 bytes (R9). -/
def Frame.guarded (f : Frame) : Bool :=
  decide (Config.frameBytes ≤ f.bytes.length) && decide (f.bytes.length ≤ Config.maxBuf)

/-- The domain of DECODE's frame: "a byte sequence of any length from 2 to 65535" (R97). -/
def Frame.completed (f : Frame) : Bool :=
  decide (2 ≤ f.bytes.length) && decide (f.bytes.length ≤ Config.maxBuf)

/-- An instruction all of whose operands lie in their rules' domains. -/
def Instr.wf : Instr → Bool
  | .summary f => f.guarded
  | .length f => f.guarded
  | .msgType f => f.guarded
  | .depth f => f.guarded
  | .waterPressure f => f.guarded
  | .waterTemp f => f.guarded
  | .enclTemp f => f.guarded
  | .enclHumidity f => f.guarded
  | .airPressure f => f.guarded
  | .heading f => f.guarded
  | .headingToTarget f => f.guarded
  | .distanceToTarget f => f.guarded
  | .journeyCourse f => f.guarded
  | .journeyDistance f => f.guarded
  | .displayLabel f => f.guarded
  | .makoSecondsOn f => f.guarded
  | .makoUserAction f => f.guarded
  | .badChecksumCount f => f.guarded
  | .usbVoltage f => f.guarded
  | .usbCurrent f => f.guarded
  | .targetCode f => f.guarded
  | .sensorTiming f => f.guarded
  | .accel f => f.guarded
  | .gyro f => f.guarded
  | .linAccel f => f.guarded
  | .rotAccel f => f.guarded
  | .goodChecksumCount f => f.guarded
  | .waymarkerId f => f.guarded
  | .waymarkerLabel f => f.guarded
  | .directionMetric f => f.guarded
  | .flags f => f.guarded
  | .reserved31 f => f.guarded
  | .checksumOk f => f.guarded
  | .checksumError f => f.guarded
  | .feed _ _ _ => true
  | .reset => true
  | .decode f => f.completed
  | .chkCompute _ => true
  | .chkValidate m => decide (Config.frameBytes ≤ m.length)
  | .f32Decode _ _ => true

end Sys2Proof
end

