-- ==== Sys2Proof/Decode.lean ====
section
/-! DEFINITION. The decoder, from what is presented to an instruction; the encoder, back; and the host's entry by table
words. The identifier codes are those of R50; FEED and RESET have no opcode and are selected by which input is driven
(D2). -/

namespace Sys2Proof

/-- The identifier map of R50 from a 6-bit `field_id`; 34 to 63 "do not exist" (R60). -/
def FieldId.ofCode (c : BitVec Config.idBits) : Option FieldId :=
  match c.toNat with
  | 0 => some .summary
  | 1 => some .length
  | 2 => some .msgType
  | 3 => some .depth
  | 4 => some .waterPressure
  | 5 => some .waterTemp
  | 6 => some .enclTemp
  | 7 => some .enclHumidity
  | 8 => some .airPressure
  | 9 => some .heading
  | 10 => some .headingToTarget
  | 11 => some .distanceToTarget
  | 12 => some .journeyCourse
  | 13 => some .journeyDistance
  | 14 => some .displayLabel
  | 15 => some .makoSecondsOn
  | 16 => some .makoUserAction
  | 17 => some .badChecksumCount
  | 18 => some .usbVoltage
  | 19 => some .usbCurrent
  | 20 => some .targetCode
  | 21 => some .sensorTiming
  | 22 => some .accel
  | 23 => some .gyro
  | 24 => some .linAccel
  | 25 => some .rotAccel
  | 26 => some .goodChecksumCount
  | 27 => some .waymarkerId
  | 28 => some .waymarkerLabel
  | 29 => some .directionMetric
  | 30 => some .flags
  | 31 => some .reserved31
  | 32 => some .checksumOk
  | 33 => some .checksumError
  | _ => none

/-- The `field_id` of each identifier (R50). -/
def FieldId.code : FieldId → BitVec Config.idBits
  | .summary => 0
  | .length => 1
  | .msgType => 2
  | .depth => 3
  | .waterPressure => 4
  | .waterTemp => 5
  | .enclTemp => 6
  | .enclHumidity => 7
  | .airPressure => 8
  | .heading => 9
  | .headingToTarget => 10
  | .distanceToTarget => 11
  | .journeyCourse => 12
  | .journeyDistance => 13
  | .displayLabel => 14
  | .makoSecondsOn => 15
  | .makoUserAction => 16
  | .badChecksumCount => 17
  | .usbVoltage => 18
  | .usbCurrent => 19
  | .targetCode => 20
  | .sensorTiming => 21
  | .accel => 22
  | .gyro => 23
  | .linAccel => 24
  | .rotAccel => 25
  | .goodChecksumCount => 26
  | .waymarkerId => 27
  | .waymarkerLabel => 28
  | .directionMetric => 29
  | .flags => 30
  | .reserved31 => 31
  | .checksumOk => 32
  | .checksumError => 33

/-- The instruction of a row of the identifier map, on a frame. -/
def Instr.ofRow (id : FieldId) (f : Frame) : Instr :=
  match id with
  | .summary => .summary f
  | .length => .length f
  | .msgType => .msgType f
  | .depth => .depth f
  | .waterPressure => .waterPressure f
  | .waterTemp => .waterTemp f
  | .enclTemp => .enclTemp f
  | .enclHumidity => .enclHumidity f
  | .airPressure => .airPressure f
  | .heading => .heading f
  | .headingToTarget => .headingToTarget f
  | .distanceToTarget => .distanceToTarget f
  | .journeyCourse => .journeyCourse f
  | .journeyDistance => .journeyDistance f
  | .displayLabel => .displayLabel f
  | .makoSecondsOn => .makoSecondsOn f
  | .makoUserAction => .makoUserAction f
  | .badChecksumCount => .badChecksumCount f
  | .usbVoltage => .usbVoltage f
  | .usbCurrent => .usbCurrent f
  | .targetCode => .targetCode f
  | .sensorTiming => .sensorTiming f
  | .accel => .accel f
  | .gyro => .gyro f
  | .linAccel => .linAccel f
  | .rotAccel => .rotAccel f
  | .goodChecksumCount => .goodChecksumCount f
  | .waymarkerId => .waymarkerId f
  | .waymarkerLabel => .waymarkerLabel f
  | .directionMetric => .directionMetric f
  | .flags => .flags f
  | .reserved31 => .reserved31 f
  | .checksumOk => .checksumOk f
  | .checksumError => .checksumError f

/-- A byte range of even length as pairs, low byte (even offset) first; none for an odd length (R82). -/
def pairUp : List Byte → Option (List (Byte × Byte))
  | [] => some []
  | [_] => none
  | lo :: hi :: rest => (pairUp rest).map ((lo, hi) :: ·)

/-- The byte range a list of pairs stands for. -/
def flattenPairs : List (Byte × Byte) → List Byte
  | [] => []
  | (lo, hi) :: rest => lo :: hi :: flattenPairs rest

/-- Accept `i` when the frame's length lies between `least` and 65535; otherwise name what is wrong. -/
def checkFrame (least : Nat) (f : Frame) (i : Instr) : Except DecodeError Instr :=
  if f.bytes.length < least then .error (.frameTooShort f.bytes.length)
  else if Config.maxBuf < f.bytes.length then .error (.frameTooLong f.bytes.length)
  else .ok i

/-- The decoder: total on every request, rejecting by name. -/
def decode : Request → Except DecodeError Instr
  | .byteEvent b ss es => .ok (.feed b ss es)
  | .resetInput => .ok .reset
  | .tableRow c f =>
    match FieldId.ofCode c with
    | none => .error (.unassignedIdentifier c)
    | some id => checkFrame Config.frameBytes f (Instr.ofRow id f)
  | .callDecode f => checkFrame 2 f (.decode f)
  | .callChkCompute m =>
    match pairUp m with
    | none => .error (.oddChecksumRange m.length)
    | some ps => .ok (.chkCompute ps)
  | .callChkValidate m =>
    if m.length < Config.frameBytes then .error (.frameTooShort m.length) else .ok (.chkValidate m)
  | .callF32Decode lo hi => .ok (.f32Decode lo hi)

/-- The encoder: the request that presents an instruction. -/
def encode : Instr → Request
  | .summary f => .tableRow (FieldId.code .summary) f
  | .length f => .tableRow (FieldId.code .length) f
  | .msgType f => .tableRow (FieldId.code .msgType) f
  | .depth f => .tableRow (FieldId.code .depth) f
  | .waterPressure f => .tableRow (FieldId.code .waterPressure) f
  | .waterTemp f => .tableRow (FieldId.code .waterTemp) f
  | .enclTemp f => .tableRow (FieldId.code .enclTemp) f
  | .enclHumidity f => .tableRow (FieldId.code .enclHumidity) f
  | .airPressure f => .tableRow (FieldId.code .airPressure) f
  | .heading f => .tableRow (FieldId.code .heading) f
  | .headingToTarget f => .tableRow (FieldId.code .headingToTarget) f
  | .distanceToTarget f => .tableRow (FieldId.code .distanceToTarget) f
  | .journeyCourse f => .tableRow (FieldId.code .journeyCourse) f
  | .journeyDistance f => .tableRow (FieldId.code .journeyDistance) f
  | .displayLabel f => .tableRow (FieldId.code .displayLabel) f
  | .makoSecondsOn f => .tableRow (FieldId.code .makoSecondsOn) f
  | .makoUserAction f => .tableRow (FieldId.code .makoUserAction) f
  | .badChecksumCount f => .tableRow (FieldId.code .badChecksumCount) f
  | .usbVoltage f => .tableRow (FieldId.code .usbVoltage) f
  | .usbCurrent f => .tableRow (FieldId.code .usbCurrent) f
  | .targetCode f => .tableRow (FieldId.code .targetCode) f
  | .sensorTiming f => .tableRow (FieldId.code .sensorTiming) f
  | .accel f => .tableRow (FieldId.code .accel) f
  | .gyro f => .tableRow (FieldId.code .gyro) f
  | .linAccel f => .tableRow (FieldId.code .linAccel) f
  | .rotAccel f => .tableRow (FieldId.code .rotAccel) f
  | .goodChecksumCount f => .tableRow (FieldId.code .goodChecksumCount) f
  | .waymarkerId f => .tableRow (FieldId.code .waymarkerId) f
  | .waymarkerLabel f => .tableRow (FieldId.code .waymarkerLabel) f
  | .directionMetric f => .tableRow (FieldId.code .directionMetric) f
  | .flags f => .tableRow (FieldId.code .flags) f
  | .reserved31 f => .tableRow (FieldId.code .reserved31) f
  | .checksumOk f => .tableRow (FieldId.code .checksumOk) f
  | .checksumError f => .tableRow (FieldId.code .checksumError) f
  | .feed b ss es => .byteEvent b ss es
  | .reset => .resetInput
  | .decode f => .callDecode f
  | .chkCompute ps => .callChkCompute (flattenPairs ps)
  | .chkValidate m => .callChkValidate m
  | .f32Decode lo hi => .callF32Decode lo hi

/-- The operand of a table word that gives its operand no bits: a frame of 57 zero words, both times zero. -/
def Frame.zeros : Frame :=
  { bytes := List.replicate Config.frameBytes 0, start := 0, stop := 0 }

/-- The request of a table word: `field_id` is its bits 5 to 0, as the table's mask 0x3F says; the operand words are
zero. -/
def tableRequest (w : Nat) : Request :=
  .tableRow (BitVec.ofNat Config.idBits w) Frame.zeros

/-- The host's entry: what the decoder reads from a word numbered as the opcode table numbers it. A row of no bits (the
six rows of mask 0x00, selected without an opcode) has no word. -/
def decodeTableWord (nbits w : Nat) : Option Instr :=
  if nbits = 0 then none
  else
    match decode (tableRequest w) with
    | .ok i => some i
    | .error _ => none

end Sys2Proof
end

