-- ==== Sys2Proof/Machine/State.lean ====
section
/-! DEFINITION. The machine's state as plain data: the three elements of R17, and the model's own record of what
crosses UFR's boundary (the operations still to come, the events delivered, the last operation's result). -/

namespace Sys2Proof.Machine

/-- The accumulation buffer (R17, R25): a sequence of bytes; the byte at address `i` is element `i`, and an address at
or past the length holds nothing (R31). A sequence has one representation, so equal buffers are equal data (log 5). -/
abbrev Memory := List Byte

/-- The typed payload of a field event (R52). -/
inductive Payload where
  /-- One word. -/
  | u16 (w : Word)
  /-- One word and the constant `k`: the value meant is the exact rational `w / 10^k`. -/
  | scaled (k : Nat) (w : Word)
  /-- Two code points, 0 to 255. -/
  | ascii2 (c1 c2 : Byte)
  /-- Four code points, 0 to 255. -/
  | ascii4 (c1 c2 c3 c4 : Byte)
  /-- Six words, in frame order. -/
  | u16x6 (t0 t1 t2 t3 t4 t5 : Word)
  /-- Three 32-bit patterns, X, Y, Z. -/
  | f32x3 (fx fy fz : Pattern)
  /-- The two words of a ChecksumResult. -/
  | chk (computed received : Word)
  /-- The summary's three components. -/
  | sum (length msgType : Word) (isValid : Bool)
  deriving DecidableEq, Repr

/-- A field event (R51): the 4-tuple `(start_time, end_time, field_id, payload)`. -/
structure FieldEvent where
  startTime : Time
  endTime : Time
  fieldId : FieldId
  payload : Payload
  deriving DecidableEq, Repr

/-- The ChecksumResult of R83; `isValid` never outlives the pass (R22). -/
structure ChecksumResult where
  computed : Word
  received : Word
  isValid : Bool
  deriving DecidableEq, Repr

/-- What an operation returns: FEED, RESET, DECODE and the field rows return events (R66, R74, R97), CHK_COMPUTE a word
(R81), CHK_VALIDATE a ChecksumResult (R83), F32_DECODE a pattern (R89). -/
inductive Returned where
  /-- No operation has run yet. -/
  | nothing
  | events (evs : List FieldEvent)
  | word (w : Word)
  | checksum (r : ChecksumResult)
  | pattern (p : Pattern)
  deriving DecidableEq, Repr

/-- The control state of R19, a function of the buffer; it is not stored. -/
inductive Phase where
  | empty
  | one
  | accum
  deriving DecidableEq, Repr

/-- Why the machine stops. UFR itself raises nothing (R186). -/
inductive Fault where
  /-- Raised by FEED alone, when a frame completes and no start time is held. R18 (I-a) rules such a state out, and no
  operation leads to one (log 6). Safe. -/
  | startTimeUnset
  deriving DecidableEq, Repr

/-- Why a request has no meaning. -/
inductive Refusal where
  /-- Raised by `exec`'s arm for an instruction that has no meaning yet; no arm raises it. Safe. -/
  | notModelled (mnemonic : String)
  /-- Raised by `step` when what is presented is no instruction. Safe. -/
  | undecodable (e : DecodeError)
  /-- Raised by the row RESERVED_31: the identifier is "unused/reserved" and "never emitted" (R60, U1; log 7). Safe. -/
  | reservedIdentifier
  /-- Raised by CHK_VALIDATE on fewer than 114 bytes, outside its operand's domain (R83; log 8). Safe. -/
  | operandOutsideDomain
  deriving DecidableEq, Repr

/-- The whole state. `buf`, `expLen`, `tsStart` are the AssemblyState of R17, all the state UFR has (R26); `input`,
`sink`, `ret` are the model's own (log 3, log 4). -/
structure State where
  /-- The bytes of the frame in progress, in arrival order (R17). -/
  buf : Memory
  /-- `exp_len`: the expected frame length once latched (R17). -/
  expLen : Option Word
  /-- `ts_start`: the start time of the first byte of the frame in progress (R17). -/
  tsStart : Option Time
  /-- What is still to be presented, oldest first (R16, R38, R203). -/
  input : List Request
  /-- The events delivered so far, oldest first (R16, R38, R204). -/
  sink : List FieldEvent
  /-- What the last operation returned. -/
  ret : Returned
  deriving DecidableEq, Repr

/-- The machine right after reset, and at "decoder start" (R28): the three elements empty, and nothing presented,
delivered or returned yet (log 3, log 4). -/
def State.reset : State :=
  { buf := [], expLen := none, tsStart := none, input := [], sink := [], ret := .nothing }

end Sys2Proof.Machine
end

