-- ==== Sys2Proof/Machine/Operands.lean ====
section
/-! DEFINITION. Every operand form: the views of the buffer (R13, R31, R32), the assembly of a word, a length prefix, an
ASCII pair and quad, a float pattern and a scaled value (R54 to R59), and the payload each kind makes of a frame's words
(R52). A view answers nothing outside the buffer: R31 says that no rule reads there. -/

namespace Sys2Proof.Machine

/-- The byte view (R31): `buf[a]`, defined for `a < len(buf)`. -/
def readByte (m : Memory) (a : Nat) : Option Byte :=
  m[a]?

/-- `MemRead(a, n)` (R13): `n` bytes, little-endian; defined only when `a + n ≤ len(buf)`. -/
def memRead (m : Memory) (a : Nat) : Nat → Option Nat
  | 0 => if a ≤ m.length then some 0 else none
  | n + 1 =>
    match readByte m a, memRead m (a + 1) n with
    | some b, some r => some (b.toNat + 256 * r)
    | _, _ => none

/-- A word from two bytes, the lower offset less significant (R32, R33, R54). -/
def wordOfBytes (lo hi : Byte) : Word :=
  hi ++ lo

/-- The word view (R32): `W(i) = buf[2i] | (buf[2i+1] << 8)`. -/
def wordAt (m : Memory) (i : Nat) : Option Word :=
  match readByte m (2 * i), readByte m (2 * i + 1) with
  | some lo, some hi => some (wordOfBytes lo hi)
  | _, _ => none

/-- The length prefix (R55, R68): the first two bytes as a little-endian word, once there are two. -/
def lengthPrefix : Memory → Option Word
  | lo :: hi :: _ => some (wordOfBytes lo hi)
  | _ => none

/-- Character 1 of a word: `w & 0xFF` (R56, R104). -/
def char1 (w : Word) : Byte :=
  w.extractLsb' 0 8

/-- Character 2 of a word: `(w >> 8) & 0xFF` (R56, R104). -/
def char2 (w : Word) : Byte :=
  w.extractLsb' 8 8

/-- A float pattern from a word pair: `(word_hi << 16) | word_lo` (R58, R89). -/
def f32Decode (wordLo wordHi : Word) : Pattern :=
  wordHi ++ wordLo

/-- The value a SCALED(k) word stands for: the exact rational `w / 10^k` (R52, R59, R105). Nothing in UFR computes it. -/
def scaledValue (k : Nat) (w : Word) : Rat :=
  mkRat w.toNat (10 ^ k)

/-- The U16 payload of word `i` (R52). -/
def u16Payload (m : Memory) (i : Nat) : Option Payload :=
  (wordAt m i).map .u16

/-- The SCALED(k) payload of word `i`: the raw word (R52, R59). -/
def scaledPayload (k : Nat) (m : Memory) (i : Nat) : Option Payload :=
  (wordAt m i).map (.scaled k)

/-- The ASCII2 payload of word `i` (R52, R56). -/
def ascii2Payload (m : Memory) (i : Nat) : Option Payload :=
  (wordAt m i).map fun w => .ascii2 (char1 w) (char2 w)

/-- The ASCII4 payload of words `i` and `i + 1` (R52, R57). -/
def ascii4Payload (m : Memory) (i : Nat) : Option Payload :=
  match wordAt m i, wordAt m (i + 1) with
  | some v, some w => some (.ascii4 (char1 v) (char2 v) (char1 w) (char2 w))
  | _, _ => none

/-- The U16X6 payload of words `i` to `i + 5` (R52, R126). -/
def u16x6Payload (m : Memory) (i : Nat) : Option Payload :=
  match wordAt m i, wordAt m (i + 1), wordAt m (i + 2), wordAt m (i + 3), wordAt m (i + 4), wordAt m (i + 5) with
  | some t0, some t1, some t2, some t3, some t4, some t5 => some (.u16x6 t0 t1 t2 t3 t4 t5)
  | _, _, _, _, _, _ => none

/-- The float of words `i` and `i + 1`, the lower index being `word_lo` (R58, R90). -/
def floatAt (m : Memory) (i : Nat) : Option Pattern :=
  match wordAt m i, wordAt m (i + 1) with
  | some lo, some hi => some (f32Decode lo hi)
  | _, _ => none

/-- The F32X3 payload of words `i` to `i + 5`: X, Y, Z (R52, R94). -/
def f32x3Payload (m : Memory) (i : Nat) : Option Payload :=
  match floatAt m i, floatAt m (i + 2), floatAt m (i + 4) with
  | some fx, some fy, some fz => some (.f32x3 fx fy fz)
  | _, _, _ => none

end Sys2Proof.Machine
end

