-- ==== Sys2Proof/Machine/Flags.lean ====
section
/-! DEFINITION. UFR has no status flags (R22, R23). The one boolean it computes is the ChecksumResult's validity flag,
which lives inside one decode pass. -/

namespace Sys2Proof.Machine

/-- `is_valid = (computed = received)`, 16-bit equality (R22, R83). -/
def isValid (computed received : Word) : Bool :=
  computed == received

end Sys2Proof.Machine
end

