-- ==== Sys2Proof/Machine/Ops.lean ====
section
/-! DEFINITION. The named operations over the state: the sub-steps of FEED (R67 to R70), the clear, the return of an
operation's result, and the checks of the memory's form. UFR takes no exception and returns from none (R186, R189, R190),
so there is no such operation here. -/

namespace Sys2Proof.Machine

/-- The form the buffer keeps: at most 65535 bytes (R9, R17). A sequence lists its addresses 0, 1, 2, ... without gap by
construction (log 5). -/
def Memory.wf (m : Memory) : Bool :=
  decide (m.length ≤ Config.maxBuf)

/-- The buffer as (address, byte) pairs, addresses rising from 0 (R25, R37). -/
def Memory.cells (m : Memory) : List Host.Cell :=
  m.zipIdx.map fun (b, a) => (a, b)

/-- `BufAppend(b)` (R13): the one way the buffer grows. -/
def bufAppend (m : Memory) (b : Byte) : Memory :=
  m ++ [b]

/-- The address `BufAppend` stores to: the first one past the buffer (R13, R31). -/
def appendAddr (m : Memory) : Nat :=
  m.length

/-- The control state of R19. -/
def State.phase (s : State) : Phase :=
  match s.buf with
  | [] => .empty
  | [_] => .one
  | _ :: _ :: _ => .accum

/-- FEED step 1 (R67): append the byte; record the start time if the buffer was empty. -/
def State.append (s : State) (b : Byte) (ss : Time) : State :=
  { s with buf := bufAppend s.buf b, tsStart := if s.buf = [] then some ss else s.tsStart }

/-- FEED step 2 (R68): with at least two bytes in and no length latched, latch the first two as the length. -/
def State.latch (s : State) : State :=
  match s.expLen, lengthPrefix s.buf with
  | none, some l => { s with expLen := some l }
  | _, _ => s

/-- The completion test of FEED step 3 (R69): a length is latched and the buffer has reached it, unsigned. -/
def State.complete (s : State) : Bool :=
  match s.expLen with
  | some l => decide (l.toNat ≤ s.buf.length)
  | none => false

/-- The clear of FEED step 4 and of RESET (R70, R74): the three elements to their reset values. -/
def State.clear (s : State) : State :=
  { s with buf := [], expLen := none, tsStart := none }

/-- An operation returns its events: the sink receives them in order, after all earlier ones (R38, R204). -/
def State.deliver (s : State) (evs : List FieldEvent) : State :=
  { s with sink := s.sink ++ evs, ret := .events evs }

/-- An internal function returns its value; it reads no state and writes none (R81, R83, R89). -/
def State.answer (s : State) (r : Returned) : State :=
  { s with ret := r }

/-- Wait for the next request: nothing changes (R193). -/
def State.waiting (s : State) : State :=
  s

end Sys2Proof.Machine
end

