-- ==== Sys2Proof/Machine/Float.lean ====
section
/-! DEFINITION. The FloatCodec (R89 to R96). UFR passes the 32 bits through and never splits them; the reading of a
pattern as a number (R91) and the split into words (R95) are here for statements and test frames. -/

namespace Sys2Proof.Machine

/-- The meaning of `F32_DECODE` (R89): answer the pattern. -/
def execF32Decode (wordLo wordHi : Word) (s : State) : Host.Outcome State Fault Refusal :=
  .next (s.answer (.pattern (f32Decode wordLo wordHi)))

/-- The words a pattern is sent as (R95): `word_lo = p[15:0]`, then `word_hi = p[31:16]`. UFR has no encoder. -/
def f32Split (p : Pattern) : Word × Word :=
  (p.extractLsb' 0 16, p.extractLsb' 16 16)

/-- The bytes a pattern is sent as, lowest address first (R95). -/
def f32Bytes (p : Pattern) : List Byte :=
  [p.extractLsb' 0 8, p.extractLsb' 8 8, p.extractLsb' 16 8, p.extractLsb' 24 8]

/-- The sign bit `p[31]`. PRESUMED (R91 is from general knowledge, G1; log 9). -/
def f32Sign (p : Pattern) : Bool :=
  p.getLsbD 31

/-- The biased exponent `p[30:23]`. PRESUMED (R91, G1; log 9). -/
def f32Exponent (p : Pattern) : BitVec 8 :=
  p.extractLsb' 23 8

/-- The fraction `p[22:0]`. PRESUMED (R91, G1; log 9). -/
def f32Fraction (p : Pattern) : BitVec 23 :=
  p.extractLsb' 0 23

/-- What a pattern stands for. PRESUMED (R91, G1; log 9). -/
inductive FloatMeaning where
  /-- A finite value; `negative` keeps the sign of a zero. -/
  | finite (negative : Bool) (magnitude : Rat)
  | infinity (negative : Bool)
  | nan (quiet : Bool)
  deriving DecidableEq, Repr

/-- The reading of a pattern: normal `2^(e-127) (1 + f / 2^23)` = `(2^23 + f) 2^e / 2^150`; zero and subnormal
`2^(-126) f / 2^23`; infinities and NaNs at `e = 255`. PRESUMED (R91, G1; log 9). -/
def f32Meaning (p : Pattern) : FloatMeaning :=
  let e := (f32Exponent p).toNat
  let f := (f32Fraction p).toNat
  if e = 255 then
    if f = 0 then .infinity (f32Sign p) else .nan ((f32Fraction p).getLsbD 22)
  else if e = 0 then .finite (f32Sign p) (mkRat f (2 ^ 149))
  else .finite (f32Sign p) (mkRat ((2 ^ 23 + f) * 2 ^ e) (2 ^ 150))

end Sys2Proof.Machine
end

