-- ==== Sys2Proof/Machine/Checksum.lean ====
section
/-! DEFINITION. The ChecksumValidator (R81 to R88): the XOR-fold over words and its comparison with word 56. -/

namespace Sys2Proof.Machine

/-- `CHK_COMPUTE` (R81): XOR the words of the range, low byte first, starting from zero. -/
def chkCompute (pairs : List (Byte × Byte)) : Word :=
  pairs.foldl (fun acc p => acc ^^^ wordOfBytes p.1 p.2) 0#16

/-- `CHK_VALIDATE` (R83): the fold of bytes 0 to 111 against word 56; nothing when the frame is shorter than 114 bytes,
which is outside its domain. -/
def chkValidate (frame : Memory) : Option ChecksumResult :=
  match pairUp (frame.take Config.chkBytes), wordAt frame Config.chkIndex with
  | some ps, some received =>
    some { computed := chkCompute ps, received := received, isValid := isValid (chkCompute ps) received }
  | _, _ => none

/-- The meaning of `CHK_COMPUTE` (R81): answer the fold. -/
def execChkCompute (pairs : List (Byte × Byte)) (s : State) : Host.Outcome State Fault Refusal :=
  .next (s.answer (.word (chkCompute pairs)))

/-- The meaning of `CHK_VALIDATE` (R83): answer the ChecksumResult. A range of fewer than 114 bytes is no operand of it. -/
def execChkValidate (frame : List Byte) (s : State) : Host.Outcome State Fault Refusal :=
  match chkValidate frame with
  | some r => .next (s.answer (.checksum r))
  | none => .refused .operandOutsideDomain

end Sys2Proof.Machine
end

