-- ==== Sys2Proof/Machine/Fields.lean ====
section
/-! DEFINITION. The rows of the identifier map with one field each, identifiers 1 to 30 (R106 to R135), and the
reserved identifier 31 (R60): for each, the event it makes of a frame and its meaning as an instruction. -/

namespace Sys2Proof.Machine

/-- The guard and the emission shared by every row: on a frame of at least 114 bytes (R98) one event over the frame's
whole time range (R100); on a shorter one "the parser performs no decoding and produces no output" (R98). -/
def fieldEvent (f : Frame) (id : FieldId) (p : Option Payload) : List FieldEvent :=
  if f.bytes.length < Config.frameBytes then []
  else
    match p with
    | some p => [{ startTime := f.start, endTime := f.stop, fieldId := id, payload := p }]
    | none => []

/-- `LENGTH`, identifier 1 (R106): "length", U16 of word 0. -/
def evLength (f : Frame) : List FieldEvent :=
  fieldEvent f .length (u16Payload f.bytes 0)

/-- The meaning of `LENGTH` (R106): emit its event. -/
def execLength (f : Frame) (s : State) : Host.Outcome State Fault Refusal :=
  .next (s.deliver (evLength f))

/-- `MSG_TYPE`, identifier 2 (R107): "message type", U16 of word 1. -/
def evMsgType (f : Frame) : List FieldEvent :=
  fieldEvent f .msgType (u16Payload f.bytes 1)

/-- The meaning of `MSG_TYPE` (R107): emit its event. -/
def execMsgType (f : Frame) (s : State) : Host.Outcome State Fault Refusal :=
  .next (s.deliver (evMsgType f))

/-- `DEPTH`, identifier 3 (R108): "depth", SCALED 1 of word 2. -/
def evDepth (f : Frame) : List FieldEvent :=
  fieldEvent f .depth (scaledPayload 1 f.bytes 2)

/-- The meaning of `DEPTH` (R108): emit its event. -/
def execDepth (f : Frame) (s : State) : Host.Outcome State Fault Refusal :=
  .next (s.deliver (evDepth f))

/-- `WATER_PRESSURE`, identifier 4 (R109): "water pressure", SCALED 2 of word 3. -/
def evWaterPressure (f : Frame) : List FieldEvent :=
  fieldEvent f .waterPressure (scaledPayload 2 f.bytes 3)

/-- The meaning of `WATER_PRESSURE` (R109): emit its event. -/
def execWaterPressure (f : Frame) (s : State) : Host.Outcome State Fault Refusal :=
  .next (s.deliver (evWaterPressure f))

/-- `WATER_TEMP`, identifier 5 (R110): "water temperature", SCALED 1 of word 4. -/
def evWaterTemp (f : Frame) : List FieldEvent :=
  fieldEvent f .waterTemp (scaledPayload 1 f.bytes 4)

/-- The meaning of `WATER_TEMP` (R110): emit its event. -/
def execWaterTemp (f : Frame) (s : State) : Host.Outcome State Fault Refusal :=
  .next (s.deliver (evWaterTemp f))

/-- `ENCL_TEMP`, identifier 6 (R111): "enclosure temperature", SCALED 1 of word 5. -/
def evEnclTemp (f : Frame) : List FieldEvent :=
  fieldEvent f .enclTemp (scaledPayload 1 f.bytes 5)

/-- The meaning of `ENCL_TEMP` (R111): emit its event. -/
def execEnclTemp (f : Frame) (s : State) : Host.Outcome State Fault Refusal :=
  .next (s.deliver (evEnclTemp f))

/-- `ENCL_HUMIDITY`, identifier 7 (R112): "enclosure humidity", SCALED 1 of word 6. -/
def evEnclHumidity (f : Frame) : List FieldEvent :=
  fieldEvent f .enclHumidity (scaledPayload 1 f.bytes 6)

/-- The meaning of `ENCL_HUMIDITY` (R112): emit its event. -/
def execEnclHumidity (f : Frame) (s : State) : Host.Outcome State Fault Refusal :=
  .next (s.deliver (evEnclHumidity f))

/-- `AIR_PRESSURE`, identifier 8 (R113): "air pressure", SCALED 1 of word 7. -/
def evAirPressure (f : Frame) : List FieldEvent :=
  fieldEvent f .airPressure (scaledPayload 1 f.bytes 7)

/-- The meaning of `AIR_PRESSURE` (R113): emit its event. -/
def execAirPressure (f : Frame) (s : State) : Host.Outcome State Fault Refusal :=
  .next (s.deliver (evAirPressure f))

/-- `HEADING`, identifier 9 (R114): "heading", SCALED 1 of word 8. -/
def evHeading (f : Frame) : List FieldEvent :=
  fieldEvent f .heading (scaledPayload 1 f.bytes 8)

/-- The meaning of `HEADING` (R114): emit its event. -/
def execHeading (f : Frame) (s : State) : Host.Outcome State Fault Refusal :=
  .next (s.deliver (evHeading f))

/-- `HEADING_TO_TARGET`, identifier 10 (R115): "heading to target", SCALED 1 of word 9. -/
def evHeadingToTarget (f : Frame) : List FieldEvent :=
  fieldEvent f .headingToTarget (scaledPayload 1 f.bytes 9)

/-- The meaning of `HEADING_TO_TARGET` (R115): emit its event. -/
def execHeadingToTarget (f : Frame) (s : State) : Host.Outcome State Fault Refusal :=
  .next (s.deliver (evHeadingToTarget f))

/-- `DISTANCE_TO_TARGET`, identifier 11 (R116): "distance to target", SCALED 1 of word 10. -/
def evDistanceToTarget (f : Frame) : List FieldEvent :=
  fieldEvent f .distanceToTarget (scaledPayload 1 f.bytes 10)

/-- The meaning of `DISTANCE_TO_TARGET` (R116): emit its event. -/
def execDistanceToTarget (f : Frame) (s : State) : Host.Outcome State Fault Refusal :=
  .next (s.deliver (evDistanceToTarget f))

/-- `JOURNEY_COURSE`, identifier 12 (R117): "journey course", SCALED 1 of word 11. -/
def evJourneyCourse (f : Frame) : List FieldEvent :=
  fieldEvent f .journeyCourse (scaledPayload 1 f.bytes 11)

/-- The meaning of `JOURNEY_COURSE` (R117): emit its event. -/
def execJourneyCourse (f : Frame) (s : State) : Host.Outcome State Fault Refusal :=
  .next (s.deliver (evJourneyCourse f))

/-- `JOURNEY_DISTANCE`, identifier 13 (R118): "journey distance", SCALED 2 of word 12. -/
def evJourneyDistance (f : Frame) : List FieldEvent :=
  fieldEvent f .journeyDistance (scaledPayload 2 f.bytes 12)

/-- The meaning of `JOURNEY_DISTANCE` (R118): emit its event. -/
def execJourneyDistance (f : Frame) (s : State) : Host.Outcome State Fault Refusal :=
  .next (s.deliver (evJourneyDistance f))

/-- `DISPLAY_LABEL`, identifier 14 (R119): "display label", ASCII2 of word 13. -/
def evDisplayLabel (f : Frame) : List FieldEvent :=
  fieldEvent f .displayLabel (ascii2Payload f.bytes 13)

/-- The meaning of `DISPLAY_LABEL` (R119): emit its event. -/
def execDisplayLabel (f : Frame) (s : State) : Host.Outcome State Fault Refusal :=
  .next (s.deliver (evDisplayLabel f))

/-- `MAKO_SECONDS_ON`, identifier 15 (R120): "Mako seconds on (minutes label)", U16 of word 14. -/
def evMakoSecondsOn (f : Frame) : List FieldEvent :=
  fieldEvent f .makoSecondsOn (u16Payload f.bytes 14)

/-- The meaning of `MAKO_SECONDS_ON` (R120): emit its event. -/
def execMakoSecondsOn (f : Frame) (s : State) : Host.Outcome State Fault Refusal :=
  .next (s.deliver (evMakoSecondsOn f))

/-- `MAKO_USER_ACTION`, identifier 16 (R121): "Mako user action", U16 of word 15. -/
def evMakoUserAction (f : Frame) : List FieldEvent :=
  fieldEvent f .makoUserAction (u16Payload f.bytes 15)

/-- The meaning of `MAKO_USER_ACTION` (R121): emit its event. -/
def execMakoUserAction (f : Frame) (s : State) : Host.Outcome State Fault Refusal :=
  .next (s.deliver (evMakoUserAction f))

/-- `BAD_CHECKSUM_COUNT`, identifier 17 (R122): "bad checksum count", U16 of word 16. -/
def evBadChecksumCount (f : Frame) : List FieldEvent :=
  fieldEvent f .badChecksumCount (u16Payload f.bytes 16)

/-- The meaning of `BAD_CHECKSUM_COUNT` (R122): emit its event. -/
def execBadChecksumCount (f : Frame) (s : State) : Host.Outcome State Fault Refusal :=
  .next (s.deliver (evBadChecksumCount f))

/-- `USB_VOLTAGE`, identifier 18 (R123): "USB voltage", SCALED 3 of word 17. -/
def evUsbVoltage (f : Frame) : List FieldEvent :=
  fieldEvent f .usbVoltage (scaledPayload 3 f.bytes 17)

/-- The meaning of `USB_VOLTAGE` (R123): emit its event. -/
def execUsbVoltage (f : Frame) (s : State) : Host.Outcome State Fault Refusal :=
  .next (s.deliver (evUsbVoltage f))

/-- `USB_CURRENT`, identifier 19 (R124): "USB current", SCALED 2 of word 18. -/
def evUsbCurrent (f : Frame) : List FieldEvent :=
  fieldEvent f .usbCurrent (scaledPayload 2 f.bytes 18)

/-- The meaning of `USB_CURRENT` (R124): emit its event. -/
def execUsbCurrent (f : Frame) (s : State) : Host.Outcome State Fault Refusal :=
  .next (s.deliver (evUsbCurrent f))

/-- `TARGET_CODE`, identifier 20 (R125): "target code", ASCII4 of words 19 to 20. -/
def evTargetCode (f : Frame) : List FieldEvent :=
  fieldEvent f .targetCode (ascii4Payload f.bytes 19)

/-- The meaning of `TARGET_CODE` (R125): emit its event. -/
def execTargetCode (f : Frame) (s : State) : Host.Outcome State Fault Refusal :=
  .next (s.deliver (evTargetCode f))

/-- `SENSOR_TIMING`, identifier 21 (R126): "sensor timing block", U16X6 of words 21 to 26. -/
def evSensorTiming (f : Frame) : List FieldEvent :=
  fieldEvent f .sensorTiming (u16x6Payload f.bytes 21)

/-- The meaning of `SENSOR_TIMING` (R126): emit its event. -/
def execSensorTiming (f : Frame) (s : State) : Host.Outcome State Fault Refusal :=
  .next (s.deliver (evSensorTiming f))

/-- `ACCEL`, identifier 22 (R127): "accelerometer X/Y/Z", F32X3 of words 27 to 32. -/
def evAccel (f : Frame) : List FieldEvent :=
  fieldEvent f .accel (f32x3Payload f.bytes 27)

/-- The meaning of `ACCEL` (R127): emit its event. -/
def execAccel (f : Frame) (s : State) : Host.Outcome State Fault Refusal :=
  .next (s.deliver (evAccel f))

/-- `GYRO`, identifier 23 (R128): "gyroscope X/Y/Z", F32X3 of words 33 to 38. -/
def evGyro (f : Frame) : List FieldEvent :=
  fieldEvent f .gyro (f32x3Payload f.bytes 33)

/-- The meaning of `GYRO` (R128): emit its event. -/
def execGyro (f : Frame) (s : State) : Host.Outcome State Fault Refusal :=
  .next (s.deliver (evGyro f))

/-- `LIN_ACCEL`, identifier 24 (R129): "linear acceleration X/Y/Z", F32X3 of words 39 to 44. -/
def evLinAccel (f : Frame) : List FieldEvent :=
  fieldEvent f .linAccel (f32x3Payload f.bytes 39)

/-- The meaning of `LIN_ACCEL` (R129): emit its event. -/
def execLinAccel (f : Frame) (s : State) : Host.Outcome State Fault Refusal :=
  .next (s.deliver (evLinAccel f))

/-- `ROT_ACCEL`, identifier 25 (R130): "rotational acceleration X/Y/Z", F32X3 of words 45 to 50. -/
def evRotAccel (f : Frame) : List FieldEvent :=
  fieldEvent f .rotAccel (f32x3Payload f.bytes 45)

/-- The meaning of `ROT_ACCEL` (R130): emit its event. -/
def execRotAccel (f : Frame) (s : State) : Host.Outcome State Fault Refusal :=
  .next (s.deliver (evRotAccel f))

/-- `GOOD_CHECKSUM_COUNT`, identifier 26 (R131): "good checksum count", U16 of word 51. -/
def evGoodChecksumCount (f : Frame) : List FieldEvent :=
  fieldEvent f .goodChecksumCount (u16Payload f.bytes 51)

/-- The meaning of `GOOD_CHECKSUM_COUNT` (R131): emit its event. -/
def execGoodChecksumCount (f : Frame) (s : State) : Host.Outcome State Fault Refusal :=
  .next (s.deliver (evGoodChecksumCount f))

/-- `WAYMARKER_ID`, identifier 27 (R132): "waymarker id", U16 of word 52. -/
def evWaymarkerId (f : Frame) : List FieldEvent :=
  fieldEvent f .waymarkerId (u16Payload f.bytes 52)

/-- The meaning of `WAYMARKER_ID` (R132): emit its event. -/
def execWaymarkerId (f : Frame) (s : State) : Host.Outcome State Fault Refusal :=
  .next (s.deliver (evWaymarkerId f))

/-- `WAYMARKER_LABEL`, identifier 28 (R133): "waymarker label", ASCII2 of word 53. -/
def evWaymarkerLabel (f : Frame) : List FieldEvent :=
  fieldEvent f .waymarkerLabel (ascii2Payload f.bytes 53)

/-- The meaning of `WAYMARKER_LABEL` (R133): emit its event. -/
def execWaymarkerLabel (f : Frame) (s : State) : Host.Outcome State Fault Refusal :=
  .next (s.deliver (evWaymarkerLabel f))

/-- `DIRECTION_METRIC`, identifier 29 (R134): "direction metric label", ASCII2 of word 54. -/
def evDirectionMetric (f : Frame) : List FieldEvent :=
  fieldEvent f .directionMetric (ascii2Payload f.bytes 54)

/-- The meaning of `DIRECTION_METRIC` (R134): emit its event. -/
def execDirectionMetric (f : Frame) (s : State) : Host.Outcome State Fault Refusal :=
  .next (s.deliver (evDirectionMetric f))

/-- `FLAGS`, identifier 30 (R135): "flags", U16 of word 55. -/
def evFlags (f : Frame) : List FieldEvent :=
  fieldEvent f .flags (u16Payload f.bytes 55)

/-- The meaning of `FLAGS` (R135): emit its event. -/
def execFlags (f : Frame) (s : State) : Host.Outcome State Fault Refusal :=
  .next (s.deliver (evFlags f))

/-- The meaning of `RESERVED_31`: "unused/reserved" (R60); the spec gives it no words, no payload and no effect, and
says `refuse` of it (U1; log 7). -/
def execReserved31 (_f : Frame) (_s : State) : Host.Outcome State Fault Refusal :=
  .refused .reservedIdentifier

end Sys2Proof.Machine
end

