-- ==== Sys2Proof/Machine/Parser.lean ====
section
/-! DEFINITION. The checksum event (R136), the summary event (R137) and the decode pass (R97 to R103). -/

namespace Sys2Proof.Machine

/-- `CHECKSUM_OK`, identifier 32 (R136): emitted when the fold of words 0 to 55 equals word 56. -/
def evChecksumOk (f : Frame) : List FieldEvent :=
  match chkValidate f.bytes with
  | some r => if r.isValid then fieldEvent f .checksumOk (some (.chk r.computed r.received)) else []
  | none => []

/-- `CHECKSUM_ERROR`, identifier 33 (R136): emitted when it does not. -/
def evChecksumError (f : Frame) : List FieldEvent :=
  match chkValidate f.bytes with
  | some r => if r.isValid then [] else fieldEvent f .checksumError (some (.chk r.computed r.received))
  | none => []

/-- The summary's payload (R137): word 0, word 1 and the validity flag. -/
def summaryPayload (m : Memory) : Option Payload :=
  match wordAt m 0, wordAt m 1, chkValidate m with
  | some len, some ty, some r => some (.sum len ty r.isValid)
  | _, _, _ => none

/-- `SUMMARY`, identifier 0 (R137). -/
def evSummary (f : Frame) : List FieldEvent :=
  fieldEvent f .summary (summaryPayload f.bytes)

/-- `DECODE` (R97): the guard of R98, then the events of identifiers 1 to 30 in rising order, the checksum event and
the summary, in that order (R101). -/
def decodePass (f : Frame) : List FieldEvent :=
  if f.bytes.length < Config.frameBytes then []
  else
    evLength f ++ evMsgType f ++ evDepth f ++ evWaterPressure f ++ evWaterTemp f ++
    evEnclTemp f ++ evEnclHumidity f ++ evAirPressure f ++ evHeading f ++ evHeadingToTarget f ++
    evDistanceToTarget f ++ evJourneyCourse f ++ evJourneyDistance f ++ evDisplayLabel f ++ evMakoSecondsOn f ++
    evMakoUserAction f ++ evBadChecksumCount f ++ evUsbVoltage f ++ evUsbCurrent f ++ evTargetCode f ++
    evSensorTiming f ++ evAccel f ++ evGyro f ++ evLinAccel f ++ evRotAccel f ++
    evGoodChecksumCount f ++ evWaymarkerId f ++ evWaymarkerLabel f ++ evDirectionMetric f ++ evFlags f ++
    evChecksumOk f ++ evChecksumError f ++ evSummary f

/-- The meaning of `CHECKSUM_OK` (R136): emit its event when the checksum matches, nothing otherwise. -/
def execChecksumOk (f : Frame) (s : State) : Host.Outcome State Fault Refusal :=
  .next (s.deliver (evChecksumOk f))

/-- The meaning of `CHECKSUM_ERROR` (R136): emit its event when the checksum does not match, nothing otherwise. -/
def execChecksumError (f : Frame) (s : State) : Host.Outcome State Fault Refusal :=
  .next (s.deliver (evChecksumError f))

/-- The meaning of `SUMMARY` (R137): emit its event. -/
def execSummary (f : Frame) (s : State) : Host.Outcome State Fault Refusal :=
  .next (s.deliver (evSummary f))

/-- The meaning of `DECODE` (R97): emit the pass's events; it reads no state and writes none (R138). -/
def execDecode (f : Frame) (s : State) : Host.Outcome State Fault Refusal :=
  .next (s.deliver (decodePass f))

end Sys2Proof.Machine
end

