-- ==== Sys2Proof/Machine/Assembler.lean ====
section
/-! DEFINITION. The FrameAssembler: the operations FEED and RESET (R66 to R80). -/

namespace Sys2Proof.Machine

/-- FEED steps 1 and 2 (R67, R68): the state the completion test sees. -/
def State.accumulate (s : State) (b : Byte) (ss : Time) : State :=
  (s.append b ss).latch

/-- The meaning of `FEED` (R66): append, latch, test; on completion hand the whole buffer to DECODE with the stored
start time and this byte's `es` (R69), clear (R70), and return the pass's events; otherwise return none. -/
def execFeed (b : Byte) (ss es : Time) (s : State) : Host.Outcome State Fault Refusal :=
  let s' := s.accumulate b ss
  if s'.complete then
    match s'.tsStart with
    | some start => .next (s'.clear.deliver (decodePass { bytes := s'.buf, start := start, stop := es }))
    | none => .fault .startTimeUnset
  else .next (s'.deliver [])

/-- The meaning of `RESET` (R74): clear the three elements; emit nothing. -/
def execReset (s : State) : Host.Outcome State Fault Refusal :=
  .next (s.clear.deliver [])

end Sys2Proof.Machine
end

