-- ==== Sys2Proof/Machine/Dispatch.lean ====
section
/-! DEFINITION. `exec`: one arm for each constructor of `Instr`, each one call of its meaning. -/

namespace Sys2Proof.Machine

def exec (i : Instr) (s : State) : Host.Outcome State Fault Refusal :=
  match i with
  | .summary f => Sys2Proof.Machine.execSummary f s
  | .length f => Sys2Proof.Machine.execLength f s
  | .msgType f => Sys2Proof.Machine.execMsgType f s
  | .depth f => Sys2Proof.Machine.execDepth f s
  | .waterPressure f => Sys2Proof.Machine.execWaterPressure f s
  | .waterTemp f => Sys2Proof.Machine.execWaterTemp f s
  | .enclTemp f => Sys2Proof.Machine.execEnclTemp f s
  | .enclHumidity f => Sys2Proof.Machine.execEnclHumidity f s
  | .airPressure f => Sys2Proof.Machine.execAirPressure f s
  | .heading f => Sys2Proof.Machine.execHeading f s
  | .headingToTarget f => Sys2Proof.Machine.execHeadingToTarget f s
  | .distanceToTarget f => Sys2Proof.Machine.execDistanceToTarget f s
  | .journeyCourse f => Sys2Proof.Machine.execJourneyCourse f s
  | .journeyDistance f => Sys2Proof.Machine.execJourneyDistance f s
  | .displayLabel f => Sys2Proof.Machine.execDisplayLabel f s
  | .makoSecondsOn f => Sys2Proof.Machine.execMakoSecondsOn f s
  | .makoUserAction f => Sys2Proof.Machine.execMakoUserAction f s
  | .badChecksumCount f => Sys2Proof.Machine.execBadChecksumCount f s
  | .usbVoltage f => Sys2Proof.Machine.execUsbVoltage f s
  | .usbCurrent f => Sys2Proof.Machine.execUsbCurrent f s
  | .targetCode f => Sys2Proof.Machine.execTargetCode f s
  | .sensorTiming f => Sys2Proof.Machine.execSensorTiming f s
  | .accel f => Sys2Proof.Machine.execAccel f s
  | .gyro f => Sys2Proof.Machine.execGyro f s
  | .linAccel f => Sys2Proof.Machine.execLinAccel f s
  | .rotAccel f => Sys2Proof.Machine.execRotAccel f s
  | .goodChecksumCount f => Sys2Proof.Machine.execGoodChecksumCount f s
  | .waymarkerId f => Sys2Proof.Machine.execWaymarkerId f s
  | .waymarkerLabel f => Sys2Proof.Machine.execWaymarkerLabel f s
  | .directionMetric f => Sys2Proof.Machine.execDirectionMetric f s
  | .flags f => Sys2Proof.Machine.execFlags f s
  | .reserved31 f => Sys2Proof.Machine.execReserved31 f s
  | .checksumOk f => Sys2Proof.Machine.execChecksumOk f s
  | .checksumError f => Sys2Proof.Machine.execChecksumError f s
  | .feed b ss es => Sys2Proof.Machine.execFeed b ss es s
  | .reset => Sys2Proof.Machine.execReset s
  | .decode f => Sys2Proof.Machine.execDecode f s
  | .chkCompute ps => Sys2Proof.Machine.execChkCompute ps s
  | .chkValidate m => Sys2Proof.Machine.execChkValidate m s
  | .f32Decode lo hi => Sys2Proof.Machine.execF32Decode lo hi s

end Sys2Proof.Machine
end

