-- ==== Sys2Proof/Machine/Step.lean ====
section
/-! DEFINITION. One step: take the oldest request, decode it and run it to its end (R38); with none, wait (R193). -/

namespace Sys2Proof.Machine

/-- One step of UFR is one operation (R16, R38). -/
def step (s : State) : Host.Outcome State Fault Refusal :=
  match s.input with
  | [] => .next s.waiting
  | r :: rest =>
    match decode r with
    | .ok i => exec i { s with input := rest }
    | .error e => .refused (.undecodable e)

/-- `s` with the instruction of a table word presented next: its request stands first in `input` (log 10). A row of no
bits has no word, and changes nothing. -/
def State.withFetchWord (s : State) (nbits w : Nat) : State :=
  if nbits = 0 then s else { s with input := tableRequest w :: s.input }

end Sys2Proof.Machine
end

