-- ==== Sys2Proof/Machine/Instances.lean ====
section
/-! DEFINITION. Several UFRs (R30, R192): a list of independent states, each stepped by itself. -/

namespace Sys2Proof.Machine

/-- The instances a host runs; they have no identifiers of their own (R192), only a place in the list. -/
abbrev Bank := List State

/-- One step of the instance at place `k`; a place that holds no instance is left as it is. -/
def stepInstance (k : Nat) (bank : Bank) : Host.Outcome Bank Fault Refusal :=
  match bank[k]? with
  | none => .next bank
  | some s =>
    match step s with
    | .next s' => .next (bank.set k s')
    | .fault e => .fault e
    | .refused e => .refused e

end Sys2Proof.Machine
end

