-- ==== Sys2Proof/Machine/Reduced.lean ====
section
/-! DEFINITION. The smaller state of R29, offered as a refinement: a 16-bit count and the first 114 bytes in place of
the whole buffer. -/

namespace Sys2Proof.Machine

/-- `cnt`, `store[0..113]` (as far as filled), `exp_len`, `ts_start` (R29). -/
structure Reduced where
  cnt : BitVec 16
  store : List Byte
  expLen : Option Word
  tsStart : Option Time
  deriving DecidableEq, Repr

/-- The reduced state after reset (R28, R29). -/
def Reduced.reset : Reduced :=
  { cnt := 0, store := [], expLen := none, tsStart := none }

/-- What the reduced state keeps of the full one (R29). -/
def State.reduce (s : State) : Reduced :=
  { cnt := BitVec.ofNat 16 s.buf.length, store := s.buf.take Config.frameBytes, expLen := s.expLen,
    tsStart := s.tsStart }

/-- FEED steps 1 and 2 on the reduced state: count the byte, store it if it is one of the first 114, capture the start
time at count 0, latch the length from the first two stored bytes. -/
def Reduced.accumulate (r : Reduced) (b : Byte) (ss : Time) : Reduced :=
  let store := if r.store.length < Config.frameBytes then r.store ++ [b] else r.store
  { cnt := r.cnt + 1
    store := store
    expLen := if r.expLen.isNone then lengthPrefix store else r.expLen
    tsStart := if r.cnt = 0 then some ss else r.tsStart }

/-- The completion test on the reduced state: it reads only the count (R29). -/
def Reduced.complete (r : Reduced) : Bool :=
  match r.expLen with
  | some l => decide (l ≤ r.cnt)
  | none => false

/-- FEED on the reduced state (R29): the events and the next reduced state; none without a start time. -/
def Reduced.feed (b : Byte) (ss es : Time) (r : Reduced) : Option (List FieldEvent × Reduced) :=
  let r' := r.accumulate b ss
  if r'.complete then
    r'.tsStart.map fun start => (decodePass { bytes := r'.store, start := start, stop := es }, Reduced.reset)
  else some ([], r')

end Sys2Proof.Machine
end

