-- ==== Sys2Proof/Machine/Packing.lean ====
section
/-! DEFINITION. The declarative field table (R40, R49, R50) and the bit packing of a field event (R53), with the output
channel of the port binding that R205 offers. -/

namespace Sys2Proof.Machine

/-- The payload kinds (R52); the constant of a SCALED kind belongs to the identifier. -/
inductive Kind where
  | u16
  | scaled (k : Nat)
  | ascii2
  | ascii4
  | u16x6
  | f32x3
  | chk
  | sum
  deriving DecidableEq, Repr

/-- The kind of each identifier (R50); identifier 31 has none (R60). -/
def fieldKind : FieldId → Option Kind
  | .summary => some .sum
  | .length => some .u16
  | .msgType => some .u16
  | .depth => some (.scaled 1)
  | .waterPressure => some (.scaled 2)
  | .waterTemp => some (.scaled 1)
  | .enclTemp => some (.scaled 1)
  | .enclHumidity => some (.scaled 1)
  | .airPressure => some (.scaled 1)
  | .heading => some (.scaled 1)
  | .headingToTarget => some (.scaled 1)
  | .distanceToTarget => some (.scaled 1)
  | .journeyCourse => some (.scaled 1)
  | .journeyDistance => some (.scaled 2)
  | .displayLabel => some .ascii2
  | .makoSecondsOn => some .u16
  | .makoUserAction => some .u16
  | .badChecksumCount => some .u16
  | .usbVoltage => some (.scaled 3)
  | .usbCurrent => some (.scaled 2)
  | .targetCode => some .ascii4
  | .sensorTiming => some .u16x6
  | .accel => some .f32x3
  | .gyro => some .f32x3
  | .linAccel => some .f32x3
  | .rotAccel => some .f32x3
  | .goodChecksumCount => some .u16
  | .waymarkerId => some .u16
  | .waymarkerLabel => some .ascii2
  | .directionMetric => some .ascii2
  | .flags => some .u16
  | .reserved31 => none
  | .checksumOk => some .chk
  | .checksumError => some .chk

/-- The source words of the identifiers 1 to 30 (R49, R50): the first word's index and how many there are. -/
def fieldWords : FieldId → Option (Nat × Nat)
  | .summary => none
  | .length => some (0, 1)
  | .msgType => some (1, 1)
  | .depth => some (2, 1)
  | .waterPressure => some (3, 1)
  | .waterTemp => some (4, 1)
  | .enclTemp => some (5, 1)
  | .enclHumidity => some (6, 1)
  | .airPressure => some (7, 1)
  | .heading => some (8, 1)
  | .headingToTarget => some (9, 1)
  | .distanceToTarget => some (10, 1)
  | .journeyCourse => some (11, 1)
  | .journeyDistance => some (12, 1)
  | .displayLabel => some (13, 1)
  | .makoSecondsOn => some (14, 1)
  | .makoUserAction => some (15, 1)
  | .badChecksumCount => some (16, 1)
  | .usbVoltage => some (17, 1)
  | .usbCurrent => some (18, 1)
  | .targetCode => some (19, 2)
  | .sensorTiming => some (21, 6)
  | .accel => some (27, 6)
  | .gyro => some (33, 6)
  | .linAccel => some (39, 6)
  | .rotAccel => some (45, 6)
  | .goodChecksumCount => some (51, 1)
  | .waymarkerId => some (52, 1)
  | .waymarkerLabel => some (53, 1)
  | .directionMetric => some (54, 1)
  | .flags => some (55, 1)
  | .reserved31 => none
  | .checksumOk => none
  | .checksumError => none

/-- The kind a payload is of. -/
def Payload.kind : Payload → Kind
  | .u16 _ => .u16
  | .scaled k _ => .scaled k
  | .ascii2 _ _ => .ascii2
  | .ascii4 _ _ _ _ => .ascii4
  | .u16x6 _ _ _ _ _ _ => .u16x6
  | .f32x3 _ _ _ => .f32x3
  | .chk _ _ => .chk
  | .sum _ _ _ => .sum

/-- The event's payload is of its identifier's kind (R50, R52); no event of identifier 31 is (R60). -/
def FieldEvent.wellKinded (e : FieldEvent) : Bool :=
  decide (fieldKind e.fieldId = some e.payload.kind)

/-- The 96-bit packing of a payload, unused high bits zero (R53). -/
def Payload.pack : Payload → BitVec Config.payloadBits
  | .u16 w => w.setWidth 96
  | .scaled _ w => w.setWidth 96
  | .ascii2 c1 c2 => (c2 ++ c1).setWidth 96
  | .ascii4 c1 c2 c3 c4 => (c4 ++ c3 ++ c2 ++ c1).setWidth 96
  | .u16x6 t0 t1 t2 t3 t4 t5 => (t5 ++ t4 ++ t3 ++ t2 ++ t1 ++ t0).setWidth 96
  | .f32x3 fx fy fz => (fz ++ fy ++ fx).setWidth 96
  | .chk computed received => (computed ++ received).setWidth 96
  | .sum len ty valid => (BitVec.ofBool valid ++ ty ++ len).setWidth 96

/-- The payload of a kind that 96 bits pack (R53). -/
def Kind.unpack (k : Kind) (p : BitVec Config.payloadBits) : Payload :=
  match k with
  | .u16 => .u16 (p.extractLsb' 0 16)
  | .scaled n => .scaled n (p.extractLsb' 0 16)
  | .ascii2 => .ascii2 (p.extractLsb' 0 8) (p.extractLsb' 8 8)
  | .ascii4 => .ascii4 (p.extractLsb' 0 8) (p.extractLsb' 8 8) (p.extractLsb' 16 8) (p.extractLsb' 24 8)
  | .u16x6 =>
    .u16x6 (p.extractLsb' 0 16) (p.extractLsb' 16 16) (p.extractLsb' 32 16) (p.extractLsb' 48 16)
      (p.extractLsb' 64 16) (p.extractLsb' 80 16)
  | .f32x3 => .f32x3 (p.extractLsb' 0 32) (p.extractLsb' 32 32) (p.extractLsb' 64 32)
  | .chk => .chk (p.extractLsb' 16 16) (p.extractLsb' 0 16)
  | .sum => .sum (p.extractLsb' 0 16) (p.extractLsb' 16 16) (p.getLsbD 32)

/-- One beat of the output channel that R205 offers, not normative: `out_id`, `out_ss`, `out_es`, `out_payload`,
`out_last`. Its handshake and its clock are not modelled (R212). -/
structure OutBeat where
  id : BitVec Config.idBits
  ss : Time
  es : Time
  payload : BitVec Config.payloadBits
  last : Bool
  deriving DecidableEq, Repr

/-- The bits of a field event (R53, R205): `out_last` is high with the summary event. -/
def FieldEvent.beat (e : FieldEvent) : OutBeat :=
  { id := FieldId.code e.fieldId, ss := e.startTime, es := e.endTime, payload := e.payload.pack,
    last := decide (e.fieldId = .summary) }

/-- The field event a beat carries (R53); none for an identifier with no payload kind. -/
def OutBeat.event (b : OutBeat) : Option FieldEvent :=
  match FieldId.ofCode b.id with
  | none => none
  | some id =>
    (fieldKind id).map fun k =>
      { startTime := b.ss, endTime := b.es, fieldId := id, payload := k.unpack b.payload }

end Sys2Proof.Machine
end

