-- ==== Sys2Proof/Machine/Rendering.lean ====
section
/-! DEFINITION. The rendering of field events to text (44_rendering.md): the presentation side, a pure function of the
identifier and the payload (R51, R141). The text forms the spec leaves open are arguments. -/

namespace Sys2Proof.Machine

/-- The character of a decimal digit. -/
def digitChar (d : Nat) : Char :=
  Char.ofNat (48 + d)

/-- The decimal digits of `n`, most significant first, with no leading zero; `fuel` bounds their number. -/
def decDigits : Nat → Nat → List Char
  | 0, n => [digitChar (n % 10)]
  | fuel + 1, n => if n < 10 then [digitChar n] else decDigits fuel (n / 10) ++ [digitChar (n % 10)]

/-- Exactly `k` decimal digits of `n`, zero-padded on the left (R143). -/
def padDigits : Nat → Nat → List Char
  | 0, _ => []
  | k + 1, n => padDigits k (n / 10) ++ [digitChar (n % 10)]

/-- `DEC(n)` (R142): no sign, no leading zeros, no grouping. -/
def dec (n : Nat) : String :=
  String.ofList (decDigits n n)

/-- `FIX(w, k)` (R143): `DEC(w div 10^k)`, a point, and `w mod 10^k` in exactly `k` digits. -/
def fix (w k : Nat) : String :=
  dec (w / 10 ^ k) ++ "." ++ String.ofList (padDigits k (w % 10 ^ k))

/-- The character of a hexadecimal digit, upper case (R144, D20). -/
def hexChar (d : BitVec 4) : Char :=
  if d.toNat < 10 then Char.ofNat (48 + d.toNat) else Char.ofNat (55 + d.toNat)

/-- `HEX4(w)` (R144): "0x" and exactly four digits, most significant first. -/
def hex4 (w : Word) : String :=
  "0x" ++ String.ofList [hexChar (w.extractLsb' 12 4), hexChar (w.extractLsb' 8 4), hexChar (w.extractLsb' 4 4),
    hexChar (w.extractLsb' 0 4)]

/-- `CHR(c)` (R145): the one-character string whose code point is `c`; nothing is escaped or dropped. -/
def chr (c : Byte) : String :=
  String.ofList [Char.ofNat c.toNat]

/-- A text between double quotes, `CHR(0x22)` (R161, R167, R175, R176). -/
def quoted (t : String) : String :=
  chr 0x22 ++ t ++ chr 0x22

/-- `LST` (R147): the open form of the list inside the square brackets the document shows. -/
def lst (fmt : TextFormats) (t0 t1 t2 t3 t4 t5 : Word) : String :=
  "[" ++ fmt.listFmt t0 t1 t2 t3 t4 t5 ++ "]"

/-- The value R147 offers for the open form: the items in decimal, a comma and a space between them. -/
def offeredListFmt (t0 t1 t2 t3 t4 t5 : Word) : String :=
  dec t0.toNat ++ ", " ++ dec t1.toNat ++ ", " ++ dec t2.toNat ++ ", " ++ dec t3.toNat ++ ", " ++ dec t4.toNat ++
    ", " ++ dec t5.toNat

/-- The text of a float triple (R169 to R172), with `FLT` open (R146). -/
def triple (fmt : TextFormats) (label : String) (x y z : Pattern) : String :=
  label ++ ": X=" ++ fmt.floatFmt x ++ ", Y=" ++ fmt.floatFmt y ++ ", Z=" ++ fmt.floatFmt z

/-- `RENDER` (R141, R148 to R180): one string for each identifier and payload shape UFR emits; none for any other pair. -/
def render (fmt : TextFormats) (id : FieldId) (p : Payload) : Option String :=
  match id, p with
  | .length, .u16 w => some ("Length: " ++ dec w.toNat ++ " bytes")
  | .msgType, .u16 w => some ("Message Type: " ++ dec w.toNat)
  | .depth, .scaled 1 w => some ("Depth: " ++ fix w.toNat 1 ++ "m")
  | .waterPressure, .scaled 2 w => some ("Water Pressure: " ++ fix w.toNat 2)
  | .waterTemp, .scaled 1 w => some ("Water Temp: " ++ fix w.toNat 1 ++ "°C")
  | .enclTemp, .scaled 1 w => some ("Enclosure Temp: " ++ fix w.toNat 1 ++ "°C")
  | .enclHumidity, .scaled 1 w => some ("Humidity: " ++ fix w.toNat 1 ++ "%")
  | .airPressure, .scaled 1 w => some ("Air Pressure: " ++ fix w.toNat 1)
  | .heading, .scaled 1 w => some ("Heading: " ++ fix w.toNat 1 ++ "°")
  | .headingToTarget, .scaled 1 w => some ("Heading to Target: " ++ fix w.toNat 1 ++ "°")
  | .distanceToTarget, .scaled 1 w => some ("Distance to Target: " ++ fix w.toNat 1 ++ "m")
  | .journeyCourse, .scaled 1 w => some ("Journey Course: " ++ fix w.toNat 1 ++ "°")
  | .journeyDistance, .scaled 2 w => some ("Journey Distance: " ++ fix w.toNat 2 ++ "m")
  | .displayLabel, .ascii2 c1 c2 => some ("Display: " ++ quoted (chr c1 ++ chr c2))
  | .makoSecondsOn, .u16 w => some ("Uptime: " ++ dec w.toNat ++ " min")
  | .makoUserAction, .u16 w => some ("User Action: " ++ dec w.toNat)
  | .badChecksumCount, .u16 w => some ("Bad Checksums: " ++ dec w.toNat)
  | .usbVoltage, .scaled 3 w => some ("USB Voltage: " ++ fix w.toNat 3 ++ "V")
  | .usbCurrent, .scaled 2 w => some ("USB Current: " ++ fix w.toNat 2 ++ "A")
  | .targetCode, .ascii4 c1 c2 c3 c4 => some ("Target: " ++ quoted (chr c1 ++ chr c2 ++ chr c3 ++ chr c4))
  | .sensorTiming, .u16x6 t0 t1 t2 t3 t4 t5 => some ("Sensor Timing: " ++ lst fmt t0 t1 t2 t3 t4 t5)
  | .accel, .f32x3 x y z => some (triple fmt "Accel" x y z)
  | .gyro, .f32x3 x y z => some (triple fmt "Gyro" x y z)
  | .linAccel, .f32x3 x y z => some (triple fmt "Lin Accel" x y z)
  | .rotAccel, .f32x3 x y z => some (triple fmt "Rot Accel" x y z)
  | .goodChecksumCount, .u16 w => some ("Good Checksums: " ++ dec w.toNat)
  | .waymarkerId, .u16 w => some ("Waymarker: " ++ dec w.toNat)
  | .waymarkerLabel, .ascii2 c1 c2 => some ("Waymarker Label: " ++ quoted (chr c1 ++ chr c2))
  | .directionMetric, .ascii2 c1 c2 => some ("Direction Metric: " ++ quoted (chr c1 ++ chr c2))
  | .flags, .u16 w => some ("Flags: " ++ hex4 w)
  | .checksumOk, .chk computed _ => some ("Checksum OK: " ++ hex4 computed)
  | .checksumError, .chk computed received => some ("Checksum ERROR: got " ++ hex4 received ++ ", expected " ++ hex4 computed)
  | .summary, .sum len ty valid => some (fmt.summaryFmt len ty valid)
  | _, _ => none

/-- The document's own event (R51, D8): the event with its payload rendered. -/
def FieldEvent.text (fmt : TextFormats) (e : FieldEvent) : Option String :=
  render fmt e.fieldId e.payload

/-- The texts of the events delivered so far, in the machine's own open forms. -/
def State.texts (s : State) : List (Option String) :=
  s.sink.map (FieldEvent.text Config.formats)

end Sys2Proof.Machine
end

