-- ==== Sys2Proof/Machine/Script.lean ====
section
/-! DEFINITION. The notation of R64 for sequences of operations, which the spec's test programs are written in. -/

namespace Sys2Proof.Machine

/-- One line of a script (R64). -/
inductive ScriptLine where
  /-- `RESET`. -/
  | reset
  /-- `FEED bb @(s,e)`. -/
  | feed (byte : Byte) (s e : Nat)
  /-- `FEED bb bb ... @t0+`: byte `i` has `ss = t0 + 10 i` and `es = t0 + 10 i + 9`. -/
  | run (bytes : List Byte) (t0 : Nat)
  deriving DecidableEq, Repr

/-- The requests of a run of bytes that starts at time `t0`. -/
def feedRun : List Byte → Nat → List Request
  | [], _ => []
  | b :: rest, t0 => .byteEvent b (BitVec.ofNat _ t0) (BitVec.ofNat _ (t0 + 9)) :: feedRun rest (t0 + 10)

/-- The requests a line presents. -/
def ScriptLine.requests : ScriptLine → List Request
  | .reset => [.resetInput]
  | .feed b s e => [.byteEvent b (BitVec.ofNat _ s) (BitVec.ofNat _ e)]
  | .run bytes t0 => feedRun bytes t0

/-- The requests of a script. -/
def scriptRequests (lines : List ScriptLine) : List Request :=
  (lines.map ScriptLine.requests).flatten

end Sys2Proof.Machine
end

