-- ==== Sys2Proof/Safety.lean ====
section
/-! DEFINITION. What the claims call a legal state and a cleared one: the invariants of R18 that hold between
operations, and the form of every delivered event (R50, R52, R60). -/

namespace Sys2Proof

open Sys2Proof.Machine

/-- The invariants (I-a) to (I-d) of R18, which hold between operations. -/
structure AssemblyInv (s : State) : Prop where
  /-- (I-a) No start time exactly when the buffer is empty. -/
  startUnset : s.tsStart = none ↔ s.buf = []
  /-- (I-b) No expected length exactly when fewer than two bytes are in. -/
  lengthUnset : s.expLen = none ↔ s.buf.length < 2
  /-- (I-c) A latched length is the little-endian word of the first two bytes. -/
  lengthIsPrefix : ∀ l, s.expLen = some l → lengthPrefix s.buf = some l
  /-- (I-d) A latched length has not been reached. -/
  lengthNotReached : ∀ l, s.expLen = some l → s.buf.length < l.toNat

/-- Every delivered event's payload is of its identifier's kind; in particular none has identifier 31. -/
def SinkWellKinded (s : State) : Prop :=
  ∀ e ∈ s.sink, e.wellKinded = true

/-- The three elements of R17 are at their reset values (R28). -/
def Cleared (s : State) : Prop :=
  s.buf = [] ∧ s.expLen = none ∧ s.tsStart = none

end Sys2Proof
end

