-- ==== Sys2Proof/Certificates/Slice0/Obligations.lean ====
section
/-! DEFINITION. The statements for the provers, each with the rules of the spec it formalises, and before them the few
words they are said in. Nothing here is proved. -/

namespace Sys2Proof.Claims

open Sys2Proof Sys2Proof.Machine

/-- The bytes at offsets `2i` and `2i + 1` are the low and the high byte of `w`: `W(i) = w` (R32, R33). -/
abbrev WordIs (m : Memory) (i : Nat) (w : Word) : Prop :=
  m[2 * i]? = some (w.extractLsb' 0 8) ∧ m[2 * i + 1]? = some (w.extractLsb' 8 8)

/-- In every state `i` completes, delivers exactly one event over the frame's time range, returns it, and changes
nothing else. -/
def Emits (i : Instr) (f : Frame) (id : FieldId) (p : Payload) : Prop :=
  ∀ s : State, exec i s = .next { s with
    sink := s.sink ++ [{ startTime := f.start, endTime := f.stop, fieldId := id, payload := p }]
    ret := .events [{ startTime := f.start, endTime := f.stop, fieldId := id, payload := p }] }

/-- In every state `i` completes, delivers no event, returns the empty sequence, and changes nothing else. -/
def EmitsNothing (i : Instr) : Prop :=
  ∀ s : State, exec i s = .next { s with ret := .events [] }

/-- The three elements of R17 are the same in both states. -/
def SameAssembly (s t : State) : Prop :=
  t.buf = s.buf ∧ t.expLen = s.expLen ∧ t.tsStart = s.tsStart

/-- One byte event of R47. -/
abbrev ByteEvent := Byte × Time × Time

/-- The requests of a sequence of byte events. -/
def feeds (evs : List ByteEvent) : List Request :=
  evs.map fun e => .byteEvent e.1 e.2.1 e.2.2

/-- The bytes of a sequence of byte events. -/
def bytesOf (evs : List ByteEvent) : List Byte :=
  evs.map Prod.fst

/-- The events an operation returned; none when it returned something else. -/
def eventsOf : Returned → List FieldEvent
  | .events evs => evs
  | _ => []

/-- What executing `i` in `s` returns as events; none if it stops. -/
def eventsFrom (i : Instr) (s : State) : List FieldEvent :=
  match exec i s with
  | .next t => eventsOf t.ret
  | _ => []

/-- The rows of a decode pass in the order of R97: identifiers 1 to 30, then 32 or 33, then 0. -/
def passRows : List FieldId :=
  [.length, .msgType, .depth, .waterPressure, .waterTemp, .enclTemp, .enclHumidity, .airPressure, .heading,
    .headingToTarget, .distanceToTarget, .journeyCourse, .journeyDistance, .displayLabel, .makoSecondsOn,
    .makoUserAction, .badChecksumCount, .usbVoltage, .usbCurrent, .targetCode, .sensorTiming, .accel, .gyro, .linAccel,
    .rotAccel, .goodChecksumCount, .waymarkerId, .waymarkerLabel, .directionMetric, .flags, .checksumOk,
    .checksumError, .summary]

/-- The number a list of decimal digit characters reads as. -/
def decimalValue (ds : List Char) : Nat :=
  ds.foldl (fun n c => 10 * n + (c.toNat - 48)) 0

/-- The characters 0 to 9. -/
def IsDecimal (c : Char) : Prop :=
  48 ≤ c.toNat ∧ c.toNat ≤ 57

/-- The value of a hexadecimal digit character, upper case. -/
def hexValue (c : Char) : Nat :=
  if c.toNat < 58 then c.toNat - 48 else c.toNat - 55

/-- The XOR of all the bytes of a list. -/
def xorAll (bs : List Byte) : Byte :=
  bs.foldl (· ^^^ ·) 0

/-- The bytes at even offsets when `parity` is 0, at odd offsets when it is 1. -/
def lane (parity : Nat) (m : List Byte) : List Byte :=
  (m.zipIdx.filter fun p => p.2 % 2 == parity).map Prod.fst

/-- CHK_VALIDATE answers that the checksum matches. -/
def ChecksumMatches (m : List Byte) : Prop :=
  ∃ r, chkValidate m = some r ∧ r.isValid = true

/-- The bytes with bit `j` of byte `k` flipped. -/
def flipBit (m : List Byte) (k j : Nat) : List Byte :=
  m.modify k (· ^^^ BitVec.twoPow 8 j)

/-- How many bits the fields of a payload kind take in R53. -/
def kindBits : Kind → Nat
  | .u16 => 16
  | .scaled _ => 16
  | .ascii2 => 16
  | .ascii4 => 32
  | .u16x6 => 96
  | .f32x3 => 96
  | .chk => 32
  | .sum => 33

/-- A frame with every time replaced through `g`. -/
def retimeFrame (g : Time → Time) (f : Frame) : Frame :=
  { f with start := g f.start, stop := g f.stop }

/-- A request with every time replaced through `g`. -/
def retimeRequest (g : Time → Time) : Request → Request
  | .byteEvent b ss es => .byteEvent b (g ss) (g es)
  | .resetInput => .resetInput
  | .tableRow c f => .tableRow c (retimeFrame g f)
  | .callDecode f => .callDecode (retimeFrame g f)
  | .callChkCompute m => .callChkCompute m
  | .callChkValidate m => .callChkValidate m
  | .callF32Decode lo hi => .callF32Decode lo hi

/-- An event with both its times replaced through `g`. -/
def retimeEvent (g : Time → Time) (e : FieldEvent) : FieldEvent :=
  { e with startTime := g e.startTime, endTime := g e.endTime }

/-- A result with every time replaced through `g`. -/
def retimeReturned (g : Time → Time) : Returned → Returned
  | .events evs => .events (evs.map (retimeEvent g))
  | .nothing => .nothing
  | .word w => .word w
  | .checksum r => .checksum r
  | .pattern p => .pattern p

/-- A state with every time replaced through `g`. -/
def retimeState (g : Time → Time) (s : State) : State :=
  { buf := s.buf, expLen := s.expLen, tsStart := s.tsStart.map g, input := s.input.map (retimeRequest g),
    sink := s.sink.map (retimeEvent g), ret := retimeReturned g s.ret }

end Sys2Proof.Claims

open Sys2Proof Sys2Proof.Machine Sys2Proof.Claims

/-! ## Encoding and the step -/

/-- Twelve words of the identifier map, written from the codes of R50, are read as their rows, on a frame of zeros.
The codes are R50's and their 6-bit width is the spec's decision D9; that a table word stands for its row on a frame of
zeros is the model's choice (log 10). -/
def Obligations.TableWordsDecodeToTheirRows : Prop :=
  decodeTableWord 8 0x00 = some (.summary Frame.zeros) ∧
  decodeTableWord 8 0x01 = some (.length Frame.zeros) ∧
  decodeTableWord 8 0x03 = some (.depth Frame.zeros) ∧
  decodeTableWord 8 0x04 = some (.waterPressure Frame.zeros) ∧
  decodeTableWord 8 0x0E = some (.displayLabel Frame.zeros) ∧
  decodeTableWord 8 0x12 = some (.usbVoltage Frame.zeros) ∧
  decodeTableWord 8 0x14 = some (.targetCode Frame.zeros) ∧
  decodeTableWord 8 0x15 = some (.sensorTiming Frame.zeros) ∧
  decodeTableWord 8 0x16 = some (.accel Frame.zeros) ∧
  decodeTableWord 8 0x1F = some (.reserved31 Frame.zeros) ∧
  decodeTableWord 8 0x20 = some (.checksumOk Frame.zeros) ∧
  decodeTableWord 8 0x21 = some (.checksumError Frame.zeros)

/-- Every well-formed instruction of every family is read back from its own request, with every operand. The requests of
rows and internal functions are the model's (log 3). -/
def Obligations.DecodeOfEncodeIsTheInstruction : Prop :=
  ∀ i : Instr, i.wf = true → decode (encode i) = .ok i

/-- Every accepted request is the request of the instruction read from it: no bit of what is presented is dropped. -/
def Obligations.EncodeOfDecodeIsTheRequest : Prop :=
  ∀ (r : Request) (i : Instr), decode r = .ok i → encode i = r

/-- Identifiers 34 to 63 "do not exist" (R60): the decoder refuses each by name, on every frame, and so does a step.
That a step refuses them by name is the model's (log 3). -/
def Obligations.UnassignedIdentifiersAreRefused : Prop :=
  ∀ (c : BitVec Config.idBits) (f : Frame), 34 ≤ c.toNat →
    decode (.tableRow c f) = .error (.unassignedIdentifier c) ∧
    ∀ (s : State) (rest : List Request), s.input = .tableRow c f :: rest →
      step s = .refused (.undecodable (.unassignedIdentifier c))

/-- The reserved identifier 31 is refused in every state: the model's choice (log 7), after `refuse` in U1. -/
def Obligations.ReservedIdentifierIsRefused : Prop :=
  ∀ (f : Frame) (s : State), exec (.reserved31 f) s = .refused .reservedIdentifier

/-- When the oldest request decodes to `i`, a step takes it from the input and is `exec i` on the rest. The input queue
is the model's (log 3). -/
def Obligations.StepRunsTheDecodedInstruction : Prop :=
  ∀ (s : State) (r : Request) (rest : List Request) (i : Instr), s.input = r :: rest → decode r = .ok i →
    step s = exec i { s with input := rest }

/-- Waiting (R193): with nothing presented the state survives any number of steps, and of what can be presented only a
FEED or a RESET changes the three elements. The requests other than byte events and the reset input are the model's
(log 3). -/
def Obligations.WaitingChangesNothing : Prop :=
  (∀ (s : State) (n : Nat), s.input = [] → Host.Core.run Sys2Proof.core n s = .next s) ∧
  (∀ (s t : State) (r : Request) (rest : List Request), s.input = r :: rest → r.fromSource = false →
    step s = .next t → SameAssembly s t)

/-! ## FEED and RESET -/

/-- FEED on the cleared state (R67): the byte is stored, `ss` becomes the start time, nothing is emitted. Two times per
byte are the spec's decision D4. -/
def Obligations.FirstByteStartsAFrame : Prop :=
  ∀ (s : State) (b : Byte) (ss es : Time), Cleared s →
    exec (.feed b ss es) s = .next { s with buf := [b], tsStart := some ss, ret := .events [] }

/-- FEED with one byte in (R68): the two bytes are latched as a little-endian length; below 3 the frame completes at
once, is too short for the parser, and the state is cleared (R71, D5, D6). -/
def Obligations.SecondByteLatchesTheLength : Prop :=
  ∀ (s : State) (b0 b : Byte) (ss es : Time) (L : Word), AssemblyInv s → s.buf = [b0] → WordIs [b0, b] 0 L →
    (3 ≤ L.toNat →
      exec (.feed b ss es) s = .next { s with buf := [b0, b], expLen := some L, ret := .events [] }) ∧
    (L.toNat ≤ 2 →
      exec (.feed b ss es) s =
        .next { s with buf := [], expLen := none, tsStart := none, ret := .events [] })

/-- FEED below the latched length (R67, R69): the byte is appended and nothing else happens. -/
def Obligations.ByteBelowTheLengthIsStored : Prop :=
  ∀ (s : State) (b : Byte) (ss es : Time) (L : Word), AssemblyInv s → s.expLen = some L →
    s.buf.length + 1 < L.toNat →
    exec (.feed b ss es) s = .next { s with buf := s.buf ++ [b], ret := .events [] }

/-- FEED of the byte that reaches the length (R69, R70): the whole buffer, the stored start time and this byte's `es`
go to DECODE, its events are delivered and returned, and the state is cleared. The end time is the spec's decision D4.
-/
def Obligations.ByteAtTheLengthCompletesTheFrame : Prop :=
  ∀ (s : State) (b : Byte) (ss es start : Time) (L : Word), AssemblyInv s → s.expLen = some L →
    s.tsStart = some start → s.buf.length + 1 = L.toNat →
    ∃ evs, evs = eventsFrom (.decode { bytes := s.buf ++ [b], start := start, stop := es }) s ∧
      exec (.feed b ss es) s = .next { s with
        buf := [], expLen := none, tsStart := none, sink := s.sink ++ evs, ret := .events evs }

/-- The transitions of `phase` (R80), row by row, in every state of R18. R80 is the spec's derivation; prefixes 0 to 2
rest on its decisions D5 and D6. -/
def Obligations.PhaseFollowsTheTransitionTable : Prop :=
  ∀ (s : State) (b : Byte) (ss es : Time), AssemblyInv s →
    (s.phase = .empty → ∃ t, exec (.feed b ss es) s = .next t ∧ t.phase = .one ∧ t.tsStart = some ss ∧
      t.ret = .events []) ∧
    (∀ b0 L, s.buf = [b0] → WordIs [b0, b] 0 L → s.phase = .one ∧
      (L.toNat ≤ 2 → ∃ t, exec (.feed b ss es) s = .next t ∧ t.phase = .empty ∧ t.ret = .events []) ∧
      (3 ≤ L.toNat → ∃ t, exec (.feed b ss es) s = .next t ∧ t.phase = .accum ∧ t.expLen = some L ∧
        t.ret = .events [])) ∧
    (∀ L, s.phase = .accum → s.expLen = some L →
      s.buf.length + 1 ≤ L.toNat ∧
      (s.buf.length + 1 < L.toNat →
        ∃ t, exec (.feed b ss es) s = .next t ∧ t.phase = .accum ∧ t.ret = .events []) ∧
      (s.buf.length + 1 = L.toNat → L.toNat < 114 →
        ∃ t, exec (.feed b ss es) s = .next t ∧ t.phase = .empty ∧ t.ret = .events []) ∧
      (s.buf.length + 1 = L.toNat → 114 ≤ L.toNat →
        ∃ t, exec (.feed b ss es) s = .next t ∧ t.phase = .empty ∧ (eventsOf t.ret).length = 32)) ∧
    (s.phase = .accum → ∃ L, s.expLen = some L) ∧
    (∃ t, exec .reset s = .next t ∧ t.phase = .empty ∧ t.ret = .events [])

/-- RESET (R74): in every state the three elements are cleared, nothing is emitted, and all else is unchanged. That it
may come at any point is the spec's decision D15. -/
def Obligations.ResetClearsTheThreeElements : Prop :=
  ∀ s : State, exec .reset s =
    .next { s with buf := [], expLen := none, tsStart := none, ret := .events [] }

/-- No input is illegal (R61) and no operation fails (R186): in every state of R18 every byte is accepted by FEED, which
returns an event sequence and a next state; RESET and CHK_COMPUTE always succeed; a step on anything the source presents
reaches a next state; every 114-byte content decodes to 32 events; a short frame is a silent no-op. -/
def Obligations.NoOperationCanFail : Prop :=
  (∀ (s : State) (b : Byte) (ss es : Time), AssemblyInv s →
    ∃ t evs, exec (.feed b ss es) s = .next t ∧ t.ret = .events evs) ∧
  (∀ s : State, ∃ t, exec .reset s = .next t ∧ t.ret = .events []) ∧
  (∀ (s : State) (r : Request) (rest : List Request), AssemblyInv s → s.input = r :: rest → r.fromSource = true →
    ∃ t, step s = .next t) ∧
  (∀ (ps : List (Byte × Byte)) (s : State), ∃ t, exec (.chkCompute ps) s = .next t) ∧
  (∀ (f : Frame) (s : State), f.bytes.length = 114 → (eventsFrom (.decode f) s).length = 32) ∧
  (∀ f : Frame, f.bytes.length < 114 → EmitsNothing (.decode f))

/-- FEED's frame: the input is unchanged; the events it returns, none or 32 (R66, R102), are what the sink gains; while
the frame goes on every byte of the buffer but the appended one reads as before, and a completed frame clears the three
elements. -/
def Obligations.FeedChangesOnlyItsOwnElements : Prop :=
  ∀ (s t : State) (b : Byte) (ss es : Time), exec (.feed b ss es) s = .next t →
    t.input = s.input ∧
    t.ret = .events (eventsOf t.ret) ∧ t.sink = s.sink ++ eventsOf t.ret ∧
    ((eventsOf t.ret).length = 0 ∨ (eventsOf t.ret).length = 32) ∧
    ((s.accumulate b ss).complete = true → Cleared t) ∧
    ((s.accumulate b ss).complete = false →
      eventsOf t.ret = [] ∧
      readByte t.buf (appendAddr s.buf) = some b ∧
      (∀ a, a ≠ appendAddr s.buf → readByte t.buf a = readByte s.buf a) ∧
      (s.buf ≠ [] → t.tsStart = s.tsStart) ∧
      (s.expLen ≠ none → t.expLen = s.expLen))

/-- The frame of every other instruction (R138, R26): the three elements, so every byte of the buffer, and the input are
unchanged; the sink keeps what it held, and gains exactly the events returned. -/
def Obligations.OtherInstructionsLeaveTheAssemblerAlone : Prop :=
  ∀ (i : Instr) (s t : State), (∀ b ss es, i ≠ .feed b ss es) → i ≠ .reset → exec i s = .next t →
    SameAssembly s t ∧ (∀ a, readByte t.buf a = readByte s.buf a) ∧ t.input = s.input ∧
    t.sink = s.sink ++ eventsOf t.ret

/-! ## Reset and the invariants -/

/-- The state after reset (R28): the three elements at the values the spec states, so `phase` is EMPTY; this is also the
state after RESET and after every completed frame, short or not. -/
def Obligations.ResetStateIsEmpty : Prop :=
  (State.reset.buf = [] ∧ State.reset.expLen = none ∧ State.reset.tsStart = none ∧ State.reset.phase = .empty) ∧
  (∀ s : State, ∃ t, exec .reset s = .next t ∧ SameAssembly State.reset t) ∧
  (∀ (s t : State) (b : Byte) (ss es : Time), (s.accumulate b ss).complete = true →
    exec (.feed b ss es) s = .next t → SameAssembly State.reset t)

/-- The state after reset meets the invariants that every step keeps. -/
def Obligations.ResetStateMeetsTheInvariants : Prop :=
  AssemblyInv State.reset ∧ SinkWellKinded State.reset ∧ State.reset.buf.wf = true

/-- (I-a) to (I-d) of R18 are kept by every step from every state that meets them, whatever is presented. R18 is the
spec's derivation. -/
def Obligations.EveryStepKeepsTheAssemblyInvariants : Prop :=
  ∀ s t : State, AssemblyInv s → step s = .next t → AssemblyInv t

/-- Every delivered event's payload stays of its identifier's kind (R50, R52), and none has identifier 31 (R60). -/
def Obligations.EveryStepKeepsEventsWellKinded : Prop :=
  ∀ s t : State, SinkWellKinded s → step s = .next t →
    SinkWellKinded t ∧ ∀ e ∈ t.sink, e.fieldId ≠ .reserved31

/-- The buffer's bound (R9, R17, R18): at most 65534 bytes between operations, at most 65535 inside a FEED, so that the
memory keeps its form. The bound is the spec's derivation. -/
def Obligations.BufferNeverExceedsItsBound : Prop :=
  ∀ s : State, AssemblyInv s → s.buf.length ≤ 65534 ∧ s.buf.wf = true ∧
    (∀ b ss, (s.accumulate b ss).buf.length ≤ 65535 ∧ (s.accumulate b ss).buf.wf = true) ∧
    (∀ t, step s = .next t → t.buf.length ≤ 65534 ∧ t.buf.wf = true)

/-! ## Sequences of operations -/

/-- Reassembly (R71): from a cleared state, any `max(2, L)` byte events, `L` being the word of their first two bytes,
are taken one a step, and end in the cleared state with exactly the events of one decode pass on those bytes, over the
range from the first `ss` to the last `es`. R71 is the spec's derivation; it rests on D4, D5 and D6. -/
def Obligations.AWholeFrameIsDecodedInOnePass : Prop :=
  ∀ (s : State) (evs : List ByteEvent) (rest : List Request) (L : Word) (first last : ByteEvent),
    Cleared s → s.input = feeds evs ++ rest → WordIs (bytesOf evs) 0 L → evs.length = max 2 L.toNat →
    evs.head? = some first → evs.getLast? = some last →
    ∃ out, out = eventsFrom (.decode { bytes := bytesOf evs, start := first.2.1, stop := last.2.2 }) s ∧
      Host.Core.run Sys2Proof.core evs.length s =
        .next { s with input := rest, sink := s.sink ++ out, ret := .events out } ∧
      out.length = if L.toNat < 114 then 0 else 32

/-- Before that (R71): fewer byte events than `max(2, L)` emit nothing and are all still in the buffer. It rests on D5
and D6. -/
def Obligations.AnUnfinishedFrameEmitsNothing : Prop :=
  ∀ (s : State) (evs : List ByteEvent) (rest : List Request) (first : ByteEvent),
    Cleared s → s.input = feeds evs ++ rest → evs.head? = some first →
    (∀ L, WordIs (bytesOf evs) 0 L → evs.length < max 2 L.toNat) →
    ∃ t, Host.Core.run Sys2Proof.core evs.length s = .next t ∧ t.buf = bytesOf evs ∧ t.tsStart = some first.2.1 ∧
      t.expLen = lengthPrefix (bytesOf evs) ∧ t.input = rest ∧ t.sink = s.sink ∧ t.ret = .events []

/-- The wait is bounded (R77): whatever its prefix, a frame completes within 65535 bytes. R77 is the spec's derivation.
-/
def Obligations.AFrameCompletesWithin65535Bytes : Prop :=
  ∀ (s : State) (evs : List ByteEvent) (rest : List Request), Cleared s → s.input = feeds evs ++ rest →
    evs.length = 65535 →
    ∃ n t, 1 ≤ n ∧ n ≤ 65535 ∧ Host.Core.run Sys2Proof.core n s = .next t ∧ Cleared t

/-- "resetting state and feeding the identical byte sequence twice produces two identical event sequences" (R26, R74):
after a RESET, what is emitted and what is left in the three elements depends on the operations alone, from any state. -/
def Obligations.ResetMakesRunsRepeatable : Prop :=
  ∀ (s₁ s₂ : State) (reqs rest₁ rest₂ : List Request), (∀ r ∈ reqs, r.fromSource = true) →
    s₁.input = .resetInput :: reqs ++ rest₁ → s₂.input = .resetInput :: reqs ++ rest₂ →
    ∃ out t₁ t₂, Host.Core.run Sys2Proof.core (reqs.length + 1) s₁ = .next t₁ ∧
      Host.Core.run Sys2Proof.core (reqs.length + 1) s₂ = .next t₂ ∧
      SameAssembly t₁ t₂ ∧ t₁.sink = s₁.sink ++ out ∧ t₂.sink = s₂.sink ++ out ∧ t₁.ret = t₂.ret ∧
      t₁.input = rest₁ ∧ t₂.input = rest₂

/-- Times are copied and never compared, added or ordered (R10, R47): replacing every time through any function before
a step is the same as replacing it after. The type of a time is the model's choice (log 1, D3). -/
def Obligations.TimesAreOnlyCopied : Prop :=
  ∀ (g : Time → Time) (s t : State), step s = .next t →
    step (retimeState g s) = .next (retimeState g t)

/-! ## The rows of the identifier map -/

/-- The U16 rows (R106, R107, R120, R121, R122, R131, R132, R135) hand out their word as it is. The events' time range
is the spec's decision D7. -/
def Obligations.RawIntegerRowsEmitTheirWord : Prop :=
  ∀ (f : Frame) (w : Word), 114 ≤ f.bytes.length →
    (WordIs f.bytes 0 w → Emits (.length f) f .length (.u16 w)) ∧
    (WordIs f.bytes 1 w → Emits (.msgType f) f .msgType (.u16 w)) ∧
    (WordIs f.bytes 14 w → Emits (.makoSecondsOn f) f .makoSecondsOn (.u16 w)) ∧
    (WordIs f.bytes 15 w → Emits (.makoUserAction f) f .makoUserAction (.u16 w)) ∧
    (WordIs f.bytes 16 w → Emits (.badChecksumCount f) f .badChecksumCount (.u16 w)) ∧
    (WordIs f.bytes 51 w → Emits (.goodChecksumCount f) f .goodChecksumCount (.u16 w)) ∧
    (WordIs f.bytes 52 w → Emits (.waymarkerId f) f .waymarkerId (.u16 w)) ∧
    (WordIs f.bytes 55 w → Emits (.flags f) f .flags (.u16 w))

/-- The SCALED(1) rows (R108, R110 to R117) hand out their raw word, standing for a tenth of it. Raw words and the time
range are the spec's decisions D16 and D7. -/
def Obligations.TenthsRowsEmitTheirRawWord : Prop :=
  (∀ w : Word, scaledValue 1 w * 10 = w.toNat) ∧
  ∀ (f : Frame) (w : Word), 114 ≤ f.bytes.length →
    (WordIs f.bytes 2 w → Emits (.depth f) f .depth (.scaled 1 w)) ∧
    (WordIs f.bytes 4 w → Emits (.waterTemp f) f .waterTemp (.scaled 1 w)) ∧
    (WordIs f.bytes 5 w → Emits (.enclTemp f) f .enclTemp (.scaled 1 w)) ∧
    (WordIs f.bytes 6 w → Emits (.enclHumidity f) f .enclHumidity (.scaled 1 w)) ∧
    (WordIs f.bytes 7 w → Emits (.airPressure f) f .airPressure (.scaled 1 w)) ∧
    (WordIs f.bytes 8 w → Emits (.heading f) f .heading (.scaled 1 w)) ∧
    (WordIs f.bytes 9 w → Emits (.headingToTarget f) f .headingToTarget (.scaled 1 w)) ∧
    (WordIs f.bytes 10 w → Emits (.distanceToTarget f) f .distanceToTarget (.scaled 1 w)) ∧
    (WordIs f.bytes 11 w → Emits (.journeyCourse f) f .journeyCourse (.scaled 1 w))

/-- The SCALED(2) and SCALED(3) rows (R109, R118, R123, R124) hand out their raw word. Raw words and the time range are
the spec's decisions D16 and D7. -/
def Obligations.HundredthsAndThousandthsRowsEmitTheirRawWord : Prop :=
  (∀ w : Word, scaledValue 2 w * 100 = w.toNat ∧ scaledValue 3 w * 1000 = w.toNat) ∧
  ∀ (f : Frame) (w : Word), 114 ≤ f.bytes.length →
    (WordIs f.bytes 3 w → Emits (.waterPressure f) f .waterPressure (.scaled 2 w)) ∧
    (WordIs f.bytes 12 w → Emits (.journeyDistance f) f .journeyDistance (.scaled 2 w)) ∧
    (WordIs f.bytes 18 w → Emits (.usbCurrent f) f .usbCurrent (.scaled 2 w)) ∧
    (WordIs f.bytes 17 w → Emits (.usbVoltage f) f .usbVoltage (.scaled 3 w))

/-- The label rows (R119, R133, R134) hand out the word's two bytes, the lower offset first; the target code (R125) the
four bytes at offsets 38 to 41. No byte value is filtered. That, and the time range, are the spec's decisions D19 and
D7. -/
def Obligations.LabelRowsEmitTheirBytesInOrder : Prop :=
  ∀ f : Frame, 114 ≤ f.bytes.length →
    (∀ c1 c2, f.bytes[26]? = some c1 → f.bytes[27]? = some c2 →
      Emits (.displayLabel f) f .displayLabel (.ascii2 c1 c2)) ∧
    (∀ c1 c2, f.bytes[106]? = some c1 → f.bytes[107]? = some c2 →
      Emits (.waymarkerLabel f) f .waymarkerLabel (.ascii2 c1 c2)) ∧
    (∀ c1 c2, f.bytes[108]? = some c1 → f.bytes[109]? = some c2 →
      Emits (.directionMetric f) f .directionMetric (.ascii2 c1 c2)) ∧
    (∀ c1 c2 c3 c4, f.bytes[38]? = some c1 → f.bytes[39]? = some c2 → f.bytes[40]? = some c3 →
      f.bytes[41]? = some c4 → Emits (.targetCode f) f .targetCode (.ascii4 c1 c2 c3 c4))

/-- The sensor timing block (R126): words 21 to 26 in frame order. The time range is the spec's decision D7. -/
def Obligations.SensorTimingEmitsSixWordsInOrder : Prop :=
  ∀ (f : Frame) (t0 t1 t2 t3 t4 t5 : Word), 114 ≤ f.bytes.length → WordIs f.bytes 21 t0 → WordIs f.bytes 22 t1 →
    WordIs f.bytes 23 t2 → WordIs f.bytes 24 t3 → WordIs f.bytes 25 t4 → WordIs f.bytes 26 t5 →
    Emits (.sensorTiming f) f .sensorTiming (.u16x6 t0 t1 t2 t3 t4 t5)

/-- The four float triples (R127 to R130): each component's pattern has its low half in the word of lower index and its
high half in the next, passed bit for bit. Patterns and the time range are the spec's decisions D18 and D7. -/
def Obligations.FloatTripleRowsEmitTheirPatterns : Prop :=
  ∀ (f : Frame) (x y z : Pattern), 114 ≤ f.bytes.length →
    let pairIs := fun (i : Nat) (p : Pattern) =>
      WordIs f.bytes i (p.extractLsb' 0 16) ∧ WordIs f.bytes (i + 1) (p.extractLsb' 16 16)
    (pairIs 27 x → pairIs 29 y → pairIs 31 z → Emits (.accel f) f .accel (.f32x3 x y z)) ∧
    (pairIs 33 x → pairIs 35 y → pairIs 37 z → Emits (.gyro f) f .gyro (.f32x3 x y z)) ∧
    (pairIs 39 x → pairIs 41 y → pairIs 43 z → Emits (.linAccel f) f .linAccel (.f32x3 x y z)) ∧
    (pairIs 45 x → pairIs 47 y → pairIs 49 z → Emits (.rotAccel f) f .rotAccel (.f32x3 x y z))

/-- The checksum event (R136): with the fold of bytes 0 to 111 equal to word 56 identifier 32 is emitted and 33 is not;
otherwise 33 is and 32 is not; both carry the two words. The time range is the spec's decision D7. -/
def Obligations.ChecksumRowsEmitExactlyOneOutcome : Prop :=
  ∀ (f : Frame) (ps : List (Byte × Byte)) (received : Word), 114 ≤ f.bytes.length →
    flattenPairs ps = f.bytes.take 112 → WordIs f.bytes 56 received →
    (chkCompute ps = received →
      Emits (.checksumOk f) f .checksumOk (.chk (chkCompute ps) received) ∧ EmitsNothing (.checksumError f)) ∧
    (chkCompute ps ≠ received →
      Emits (.checksumError f) f .checksumError (.chk (chkCompute ps) received) ∧ EmitsNothing (.checksumOk f))

/-- The summary (R137): word 0, word 1 and the validity flag, emitted whether or not the checksum matched. -/
def Obligations.SummaryEmitsLengthTypeAndValidity : Prop :=
  ∀ (f : Frame) (ps : List (Byte × Byte)) (len ty received : Word), 114 ≤ f.bytes.length →
    flattenPairs ps = f.bytes.take 112 → WordIs f.bytes 0 len → WordIs f.bytes 1 ty → WordIs f.bytes 56 received →
    Emits (.summary f) f .summary (.sum len ty (decide (chkCompute ps = received)))

/-! ## The decode pass -/

/-- The guard (R98) is on the number of bytes: DECODE emits nothing at all on fewer than 114 of them, and passes 114 and
more, whatever their contents. -/
def Obligations.ShortFramesAreSilent : Prop :=
  ∀ f : Frame,
    (f.bytes.length < 114 → EmitsNothing (.decode f)) ∧
    (114 ≤ f.bytes.length → ∀ s : State, ∃ evs, evs ≠ [] ∧
      exec (.decode f) s = .next { s with sink := s.sink ++ evs, ret := .events evs })

/-- A row of the pass run by itself on a frame of fewer than 114 bytes emits nothing: the model's reading of the guard for
a single row (log 8); the spec runs rows only past the guard. -/
def Obligations.RowsAreSilentOnShortFrames : Prop :=
  ∀ f : Frame, f.bytes.length < 114 → ∀ id ∈ passRows, EmitsNothing (Instr.ofRow id f)

/-- DECODE (R97, R101): in every state it delivers and returns the events that the rows return one after another, in the
order of the pass, and changes nothing else. -/
def Obligations.DecodeRunsItsRowsInOrder : Prop :=
  ∀ (f : Frame) (s : State), ∃ evs, evs = passRows.flatMap (fun id => eventsFrom (Instr.ofRow id f) s) ∧
    exec (.decode f) s = .next { s with sink := s.sink ++ evs, ret := .events evs }

/-- A pass past the guard emits 32 events with identifiers 1, 2, ..., 30, then 32 or 33, then 0 (R101, R102). -/
def Obligations.DecodeEmits32EventsInFixedOrder : Prop :=
  ∀ (f : Frame) (s : State), 114 ≤ f.bytes.length → ∃ last,
    (last = 32 ∨ last = 33) ∧
    (eventsFrom (.decode f) s).map (fun e => (FieldId.code e.fieldId).toNat) = (List.range 30).map (· + 1) ++ [last, 0] ∧
    (eventsFrom (.decode f) s).length = 32

/-- Every event of a pass carries the frame's own time range (R100, the spec's decision D7). -/
def Obligations.EveryEventSpansTheWholeFrame : Prop :=
  ∀ (f : Frame) (s : State), ∀ e ∈ eventsFrom (.decode f) s, e.startTime = f.start ∧ e.endTime = f.stop

/-- Bytes at offset 114 and above are not read (R99, R138): two frames that agree on their first 114 bytes and their
times decode alike. -/
def Obligations.DecodeReadsOnlyTheFirst114Bytes : Prop :=
  ∀ (f g : Frame) (s : State), 114 ≤ f.bytes.length → 114 ≤ g.bytes.length →
    f.bytes.take 114 = g.bytes.take 114 → f.start = g.start → f.stop = g.stop →
    exec (.decode f) s = exec (.decode g) s

/-- The checksum gates nothing (R103): frames that agree on bytes 0 to 111 give the same 30 field events, whatever their
checksum words say; both passes are whole; the checksum event's identifier follows the outcome, and of the summary only
the one bit does. -/
def Obligations.ChecksumGatesNothing : Prop :=
  ∀ (f g : Frame) (s : State), 114 ≤ f.bytes.length → 114 ≤ g.bytes.length →
    f.bytes.take 112 = g.bytes.take 112 →
    let contents := fun (h : Frame) => (eventsFrom (.decode h) s).map fun e => (e.fieldId, e.payload)
    (contents f).take 30 = (contents g).take 30 ∧
    ∃ computed len ty, ∀ h, h = f ∨ h = g → (contents h).length = 32 ∧
      ∃ received, WordIs h.bytes 56 received ∧
        (contents h)[30]? = some
          (if computed = received then .checksumOk else .checksumError, .chk computed received) ∧
        (contents h)[31]? = some (.summary, .sum len ty (decide (computed = received)))

/-- The LENGTH event of a completed frame is the latched length, and never below 114 (R106). -/
def Obligations.LengthEventReportsTheLatchedLength : Prop :=
  ∀ (s t : State) (b : Byte) (ss es : Time) (e : FieldEvent), AssemblyInv s → exec (.feed b ss es) s = .next t →
    e ∈ eventsOf t.ret → e.fieldId = .length →
    ∃ L, (s.accumulate b ss).expLen = some L ∧ e.payload = .u16 L ∧ 114 ≤ L.toNat

/-! ## ChecksumValidator -/

/-- CHK_COMPUTE (R81): the XOR of the range's words from zero, answered with nothing else changed; the empty range gives
0, one word more is XORed in, and the order of the words cannot be seen. -/
def Obligations.ChecksumIsTheXorOfTheWords : Prop :=
  (∀ (ps : List (Byte × Byte)) (s : State),
    exec (.chkCompute ps) s = .next { s with ret := .word (chkCompute ps) }) ∧
  chkCompute [] = 0 ∧
  (∀ (lo hi : Byte) (w : Word) (ps : List (Byte × Byte)), WordIs [lo, hi] 0 w →
    chkCompute ((lo, hi) :: ps) = w ^^^ chkCompute ps) ∧
  (∀ ps qs : List (Byte × Byte), ps.Perm qs → chkCompute ps = chkCompute qs)

/-- The byte-lane form (R84): the low byte of the fold is the XOR of the bytes at even offsets, the high byte that of the
bytes at odd offsets. -/
def Obligations.ChecksumSplitsIntoByteLanes : Prop :=
  ∀ (ps : List (Byte × Byte)),
    (chkCompute ps).extractLsb' 0 8 = xorAll (lane 0 (flattenPairs ps)) ∧
    (chkCompute ps).extractLsb' 8 8 = xorAll (lane 1 (flattenPairs ps))

/-- CHK_VALIDATE (R83) on a frame of at least 114 bytes: the fold of bytes 0 to 111, word 56, and their equality; nothing
else changes. -/
def Obligations.ValidateComparesTheFoldWithWord56 : Prop :=
  ∀ (m : List Byte) (ps : List (Byte × Byte)) (received : Word) (s : State), 114 ≤ m.length →
    flattenPairs ps = m.take 112 → WordIs m 56 received →
    exec (.chkValidate m) s = .next { s with ret := .checksum { computed := chkCompute ps, received := received, isValid := decide (chkCompute ps = received) } }

/-- CHK_VALIDATE stops on fewer than 114 bytes: the model's choice (log 8), since R83 gives such a range no result. -/
def Obligations.ValidateStopsOutsideItsDomain : Prop :=
  ∀ (m : List Byte) (s : State), m.length < 114 → exec (.chkValidate m) s = .refused .operandOutsideDomain

/-- The zero-residue form (R85): a frame is valid exactly when the fold of all its 57 words is zero. -/
def Obligations.ZeroResidueMeansValid : Prop :=
  ∀ (m : List Byte) (ps : List (Byte × Byte)), 114 ≤ m.length → flattenPairs ps = m.take 114 →
    (ChecksumMatches m ↔ chkCompute ps = 0)

/-- The checksum properties (R86): a fold XORed with itself is zero; a frame built with its fold in word 56 is valid, the
two words being equal; and flipping any single bit of bytes 0 to 113 of a valid frame makes it invalid. -/
def Obligations.SingleBitFlipsAreDetected : Prop :=
  (∀ (ps : List (Byte × Byte)), ps.length = 56 →
    chkCompute ps ^^^ chkCompute ps = 0 ∧
    ChecksumMatches (flattenPairs ps ++ [(chkCompute ps).extractLsb' 0 8, (chkCompute ps).extractLsb' 8 8])) ∧
  (∀ (m : List Byte) (k j : Nat), ChecksumMatches m → k < 114 → j < 8 → ¬ ChecksumMatches (flipBit m k j))

/-- What the fold cannot catch (R87): a valid 114-byte frame rotated by any number of places is valid. -/
def Obligations.RotatedFramesStayValid : Prop :=
  ∀ (m : List Byte) (k : Nat), m.length = 114 → k ≤ 114 → ChecksumMatches m →
    ChecksumMatches (m.drop k ++ m.take k)

/-! ## FloatCodec and packing -/

/-- F32_DECODE: the pattern's low half is `word_lo` and its high half `word_hi` (R89), every bit passed through (R92, the
spec's decision D18); sending a pattern as two words, or as the four bytes, and reading them gives it back (R95, the
spec's derivation from R89). -/
def Obligations.FloatPatternIsHighThenLowWord : Prop :=
  (∀ (lo hi : Word) (s : State), ∃ p, exec (.f32Decode lo hi) s = .next { s with ret := .pattern p } ∧
    p.extractLsb' 0 16 = lo ∧ p.extractLsb' 16 16 = hi ∧ f32Split p = (lo, hi)) ∧
  (∀ p : Pattern, f32Decode (f32Split p).1 (f32Split p).2 = p ∧ memRead (f32Bytes p) 0 4 = some p.toNat)

/-- Mixed widths (R34): a float taken from words `i` and `i + 1` is the four-byte little-endian read at offset `2i`. -/
def Obligations.FloatIsAFourByteRead : Prop :=
  ∀ (m : Memory) (i : Nat) (p : Pattern), floatAt m i = some p ↔ memRead m (2 * i) 4 = some p.toNat

/-- The packing of R53: an event whose payload is of its identifier's kind is read back from its 6-bit identifier and
its 96 payload bits, and the bits above its fields are zero. The packing is the spec's decision D8. -/
def Obligations.PackedEventsReadBack : Prop :=
  ∀ e : FieldEvent, e.wellKinded = true →
    e.beat.event = some e ∧ e.beat.payload.toNat < 2 ^ kindBits e.payload.kind

/-- "For identifiers 1 to 30 this makes the payload the little-endian concatenation of the field's source words" (R53):
each row's packed payload is the read of its own words, as R49 places them. The packing is the spec's decision D8. -/
def Obligations.PackedPayloadIsTheSourceBytes : Prop :=
  ∀ (id : FieldId) (a n : Nat) (f : Frame), fieldWords id = some (a, n) → 114 ≤ f.bytes.length →
    ∃ p, Emits (Instr.ofRow id f) f id p ∧ memRead f.bytes (2 * a) (2 * n) = some p.pack.toNat

/-! ## Rendering -/

/-- RENDER is total on what UFR emits (R141), under every choice of the open text forms. One string per event is the
spec's decision D24. -/
def Obligations.EveryDecodedEventHasAText : Prop :=
  ∀ (fmt : TextFormats) (f : Frame) (s : State), ∀ e ∈ eventsFrom (.decode f) s, (e.text fmt).isSome = true

/-- DEC (R142): decimal digits only, no leading zero but for "0" itself, reading back as the number. The plain form is
the spec's decision D30. -/
def Obligations.DecimalNumeralsReadBack : Prop :=
  ∀ n : Nat, (∀ c ∈ (dec n).toList, IsDecimal c) ∧ decimalValue (dec n).toList = n ∧
    ((dec n).toList.head? = some '0' → dec n = "0")

/-- FIX (R143): `DEC` of the quotient, a point, and exactly `k` digits, which read without the point as `w` itself: the
exact quotient `w / 10^k`. -/
def Obligations.FixedPointTextIsTheExactQuotient : Prop :=
  ∀ (w : Word) (k : Nat), 1 ≤ k → k ≤ 3 → ∃ frac : List Char,
    (fix w.toNat k).toList = (dec (w.toNat / 10 ^ k)).toList ++ '.' :: frac ∧ frac.length = k ∧
    (∀ c ∈ frac, IsDecimal c) ∧ decimalValue ((dec (w.toNat / 10 ^ k)).toList ++ frac) = w.toNat

/-- HEX4 (R144): "0x" and four digits, most significant first, reading back as the word. Upper case is the spec's
decision D20. -/
def Obligations.HexNumeralsReadBack : Prop :=
  ∀ w : Word, ∃ d3 d2 d1 d0 : Char, (hex4 w).toList = ['0', 'x', d3, d2, d1, d0] ∧
    hexValue d3 * 4096 + hexValue d2 * 256 + hexValue d1 * 16 + hexValue d0 = w.toNat ∧
    ∀ c ∈ [d3, d2, d1, d0], IsDecimal c ∨ (65 ≤ c.toNat ∧ c.toNat ≤ 70)

/-! ## Agreement of two states, the reduced state and several instances -/

/-- The smaller state of R29 behaves as the full one: from every state of R18 one FEED on each gives the same events
and again corresponding states, and the reset states correspond. The refinement is offered by the spec's decision D13.
-/
def Obligations.ReducedStateRefinesTheFullState : Prop :=
  State.reset.reduce = Reduced.reset ∧
  (∀ s : State, s.clear.reduce = Reduced.reset) ∧
  ∀ (s t : State) (b : Byte) (ss es : Time), AssemblyInv s → exec (.feed b ss es) s = .next t →
    Reduced.feed b ss es s.reduce = some (eventsOf t.ret, t.reduce)

/-- Instances are independent (R30, R192): a step of one leaves every other as it was and reads none of them, so that
steps of two instances can be exchanged. -/
def Obligations.InstancesAreIndependent : Prop :=
  (∀ (j k : Nat) (bank bank' : Bank), stepInstance k bank = .next bank' → j ≠ k → bank'[j]? = bank[j]?) ∧
  (∀ (k : Nat) (bank bank' : Bank) (s : State), bank[k]? = some s → stepInstance k bank = .next bank' →
    ∃ s', step s = .next s' ∧ bank'[k]? = some s') ∧
  (∀ (j k : Nat) (bank b₁ b₂ c₁ c₂ : Bank), j ≠ k → stepInstance j bank = .next b₁ → stepInstance k b₁ = .next b₂ →
    stepInstance k bank = .next c₁ → stepInstance j c₁ = .next c₂ → b₂ = c₂)

/-- Every step keeps two states in agreement (R26: the three elements are all the state UFR has): where the three elements
and the oldest request are the same, both states go on or both stop alike; if they go on, the three elements are the same
again, both sinks gain the same events, and an operation that ran returned the same, whatever else is still to come or
was delivered before. The input and the sink are the model's (log 3, log 4). -/
def Obligations.EveryStepKeepsStatesInAgreement : Prop :=
  ∀ s₁ s₂ : State, SameAssembly s₁ s₂ → s₁.input.head? = s₂.input.head? →
    (∀ t₁, step s₁ = .next t₁ → ∃ t₂ out, step s₂ = .next t₂ ∧ SameAssembly t₁ t₂ ∧
      t₁.sink = s₁.sink ++ out ∧ t₂.sink = s₂.sink ++ out ∧
      t₁.input = s₁.input.tail ∧ t₂.input = s₂.input.tail ∧ (s₁.input ≠ [] → t₁.ret = t₂.ret)) ∧
    (∀ e, step s₁ = .fault e → step s₂ = .fault e) ∧
    (∀ e, step s₁ = .refused e → step s₂ = .refused e)
end

