-- ==== Sys2Proof/Laws/State.lean ====
section
/-! SUPPORT. The state's small lemmas: one per field per update, so that no later proof unfolds a record update. -/

namespace Sys2Proof.Machine

variable (s : State)

@[simp] theorem State.clear_buf : (s.clear).buf = [] := rfl
@[simp] theorem State.clear_expLen : (s.clear).expLen = none := rfl
@[simp] theorem State.clear_tsStart : (s.clear).tsStart = none := rfl
@[simp] theorem State.clear_input : (s.clear).input = s.input := rfl
@[simp] theorem State.clear_sink : (s.clear).sink = s.sink := rfl
@[simp] theorem State.clear_ret : (s.clear).ret = s.ret := rfl

@[simp] theorem State.deliver_buf (evs : List FieldEvent) : (s.deliver evs).buf = s.buf := rfl
@[simp] theorem State.deliver_expLen (evs : List FieldEvent) : (s.deliver evs).expLen = s.expLen := rfl
@[simp] theorem State.deliver_tsStart (evs : List FieldEvent) : (s.deliver evs).tsStart = s.tsStart := rfl
@[simp] theorem State.deliver_input (evs : List FieldEvent) : (s.deliver evs).input = s.input := rfl
@[simp] theorem State.deliver_sink (evs : List FieldEvent) : (s.deliver evs).sink = s.sink ++ evs := rfl
@[simp] theorem State.deliver_ret (evs : List FieldEvent) : (s.deliver evs).ret = .events evs := rfl

@[simp] theorem State.answer_buf (r : Returned) : (s.answer r).buf = s.buf := rfl
@[simp] theorem State.answer_expLen (r : Returned) : (s.answer r).expLen = s.expLen := rfl
@[simp] theorem State.answer_tsStart (r : Returned) : (s.answer r).tsStart = s.tsStart := rfl
@[simp] theorem State.answer_input (r : Returned) : (s.answer r).input = s.input := rfl
@[simp] theorem State.answer_sink (r : Returned) : (s.answer r).sink = s.sink := rfl
@[simp] theorem State.answer_ret (r : Returned) : (s.answer r).ret = r := rfl

@[simp] theorem State.append_buf (b : Byte) (ss : Time) : (s.append b ss).buf = s.buf ++ [b] := rfl
@[simp] theorem State.append_expLen (b : Byte) (ss : Time) : (s.append b ss).expLen = s.expLen := rfl
@[simp] theorem State.append_tsStart (b : Byte) (ss : Time) : (s.append b ss).tsStart = if s.buf = [] then some ss else s.tsStart := rfl
@[simp] theorem State.append_input (b : Byte) (ss : Time) : (s.append b ss).input = s.input := rfl
@[simp] theorem State.append_sink (b : Byte) (ss : Time) : (s.append b ss).sink = s.sink := rfl
@[simp] theorem State.append_ret (b : Byte) (ss : Time) : (s.append b ss).ret = s.ret := rfl

@[simp] theorem State.latch_buf : (s.latch).buf = s.buf := by unfold State.latch; split <;> rfl
@[simp] theorem State.latch_expLen : (s.latch).expLen = if s.expLen = none then lengthPrefix s.buf else s.expLen := by
  unfold State.latch; cases h : s.expLen <;> cases h2 : lengthPrefix s.buf <;> simp [h]
@[simp] theorem State.latch_tsStart : (s.latch).tsStart = s.tsStart := by unfold State.latch; split <;> rfl
@[simp] theorem State.latch_input : (s.latch).input = s.input := by unfold State.latch; split <;> rfl
@[simp] theorem State.latch_sink : (s.latch).sink = s.sink := by unfold State.latch; split <;> rfl
@[simp] theorem State.latch_ret : (s.latch).ret = s.ret := by unfold State.latch; split <;> rfl

@[simp] theorem State.accumulate_buf (b : Byte) (ss : Time) : (s.accumulate b ss).buf = s.buf ++ [b] := by simp [State.accumulate]
@[simp] theorem State.accumulate_expLen (b : Byte) (ss : Time) : (s.accumulate b ss).expLen = if s.expLen = none then lengthPrefix (s.buf ++ [b]) else s.expLen := by simp [State.accumulate]; rfl
@[simp] theorem State.accumulate_tsStart (b : Byte) (ss : Time) : (s.accumulate b ss).tsStart = if s.buf = [] then some ss else s.tsStart := by simp [State.accumulate]
@[simp] theorem State.accumulate_input (b : Byte) (ss : Time) : (s.accumulate b ss).input = s.input := by simp [State.accumulate]
@[simp] theorem State.accumulate_sink (b : Byte) (ss : Time) : (s.accumulate b ss).sink = s.sink := by simp [State.accumulate]
@[simp] theorem State.accumulate_ret (b : Byte) (ss : Time) : (s.accumulate b ss).ret = s.ret := by simp [State.accumulate]

@[simp] theorem State.reset_buf : State.reset.buf = [] := rfl
@[simp] theorem State.reset_expLen : State.reset.expLen = none := rfl
@[simp] theorem State.reset_tsStart : State.reset.tsStart = none := rfl
@[simp] theorem State.reset_input : State.reset.input = [] := rfl
@[simp] theorem State.reset_sink : State.reset.sink = [] := rfl
@[simp] theorem State.reset_ret : State.reset.ret = .nothing := rfl

@[simp] theorem State.waiting_eq : s.waiting = s := rfl

/-- Two states with equal fields are equal. -/
theorem State.eq_of_fields {s t : State} (h1 : s.buf = t.buf) (h2 : s.expLen = t.expLen) (h3 : s.tsStart = t.tsStart)
    (h4 : s.input = t.input) (h5 : s.sink = t.sink) (h6 : s.ret = t.ret) : s = t := by
  cases s; cases t; simp_all

end Sys2Proof.Machine
end

