-- ==== Sys2Proof/Laws/Decode.lean ====
section
/-! SUPPORT. The decoder's small lemmas: the identifier map is one to one, and pairing a byte range loses nothing. -/

namespace Sys2Proof

@[simp] theorem FieldId.ofCode_code (id : FieldId) : FieldId.ofCode id.code = some id := by
  cases id <;> rfl

theorem FieldId.code_of_ofCode : ∀ (c : BitVec 6) (id : FieldId), FieldId.ofCode c = some id → id.code = c := by
  have h : ∀ c : BitVec 6, ((FieldId.ofCode c).map FieldId.code).getD c = c := by decide
  intro c id hid
  have := h c
  simpa [hid] using this

theorem FieldId.ofCode_eq_none (c : BitVec 6) : FieldId.ofCode c = none ↔ 34 ≤ c.toNat := by
  revert c; decide

@[simp] theorem pairUp_flattenPairs (ps : List (Byte × Byte)) : pairUp (flattenPairs ps) = some ps := by
  induction ps with
  | nil => rfl
  | cons p ps ih => simp [flattenPairs, pairUp, ih]

theorem flattenPairs_of_pairUp (m : List Byte) (ps : List (Byte × Byte)) (h : pairUp m = some ps) :
    flattenPairs ps = m := by
  induction m using pairUp.induct generalizing ps with
  | case1 => cases h; rfl
  | case2 => simp [pairUp] at h
  | case3 lo hi rest ih =>
    simp only [pairUp, Option.map_eq_some_iff] at h
    obtain ⟨qs, hq, rfl⟩ := h
    simp [flattenPairs, ih qs hq]

theorem flattenPairs_length (ps : List (Byte × Byte)) : (flattenPairs ps).length = 2 * ps.length := by
  induction ps with
  | nil => rfl
  | cons p ps ih => simp [flattenPairs, ih]; omega

/-- A byte range pairs up exactly when its length is even (R82). -/
theorem pairUp_isSome_iff (m : List Byte) : (pairUp m).isSome ↔ m.length % 2 = 0 := by
  induction m using pairUp.induct with
  | case1 => simp [pairUp]
  | case2 => simp [pairUp]
  | case3 lo hi rest ih => simp [pairUp, ih]; omega

theorem flattenPairs_append (ps qs : List (Byte × Byte)) :
    flattenPairs (ps ++ qs) = flattenPairs ps ++ flattenPairs qs := by
  induction ps with
  | nil => rfl
  | cons p ps ih => simp [flattenPairs, ih]

/-- What the frame check answers: the instruction exactly when the length lies in the range. -/
theorem checkFrame_eq_ok (n : Nat) (f : Frame) (i j : Instr) :
    checkFrame n f i = .ok j ↔ n ≤ f.bytes.length ∧ f.bytes.length ≤ 65535 ∧ i = j := by
  by_cases h1 : f.bytes.length < n
  · exact ⟨fun h => by simp [checkFrame, h1] at h, fun h => absurd h.1 (by omega)⟩
  · by_cases h2 : 65535 < f.bytes.length
    · exact ⟨fun h => by simp [checkFrame, h1, h2] at h, fun h => absurd h.2.1 (by omega)⟩
    · simp [checkFrame, h1, h2]
      exact ⟨fun h => ⟨by omega, by omega, h⟩, fun h => h.2.2⟩

theorem Frame.guarded_iff (f : Frame) : f.guarded = true ↔ 114 ≤ f.bytes.length ∧ f.bytes.length ≤ 65535 := by
  simp [Frame.guarded]

theorem Frame.completed_iff (f : Frame) : f.completed = true ↔ 2 ≤ f.bytes.length ∧ f.bytes.length ≤ 65535 := by
  simp [Frame.completed]

theorem Instr.ofRow_wf (id : FieldId) (f : Frame) : (Instr.ofRow id f).wf = f.guarded := by
  cases id <;> rfl

theorem encode_ofRow (id : FieldId) (f : Frame) : encode (Instr.ofRow id f) = .tableRow id.code f := by
  cases id <;> rfl

/-- What the decoder reads from a row's request: the row on that frame, when the frame is in the row's domain. -/
theorem decode_tableRow (id : FieldId) (f : Frame) (h : f.guarded = true) :
    decode (.tableRow id.code f) = .ok (Instr.ofRow id f) := by
  rw [Frame.guarded_iff] at h
  simp only [decode, FieldId.ofCode_code]
  exact (checkFrame_eq_ok _ _ _ _).mpr ⟨h.1, h.2, rfl⟩

end Sys2Proof
end

