-- ==== Sys2Proof/Laws/Operands.lean ====
section
/-! SUPPORT. What the operand forms and the buffer's views say: words and their two bytes, when a view exists, and that
the buffer's operations keep its form. -/

namespace Sys2Proof.Machine

@[simp] theorem readByte_append_left {m : Memory} {a : Nat} (b : Byte) (h : a < m.length) :
    readByte (bufAppend m b) a = readByte m a := by
  simp [readByte, bufAppend, List.getElem?_append_left h]

@[simp] theorem readByte_appendAddr (m : Memory) (b : Byte) : readByte (bufAppend m b) (appendAddr m) = some b := by
  simp [readByte, bufAppend, appendAddr]

/-- A read after an append: the stored byte at the append's address, the old byte everywhere else. -/
theorem readByte_bufAppend (m : Memory) (b : Byte) (a : Nat) :
    readByte (bufAppend m b) a = if a = appendAddr m then some b else readByte m a := by
  simp only [readByte, bufAppend, appendAddr, List.getElem?_append]
  rcases Nat.lt_trichotomy a m.length with h | h | h
  · simp [h, Nat.ne_of_lt h]
  · simp [h]
  · have h1 : ¬ a < m.length := by omega
    have h2 : a ≠ m.length := by omega
    have h4 : a - m.length ≠ 0 := by omega
    simp [h1, h2, h4]

/-- An append to a buffer that is not full keeps the memory's form. -/
theorem bufAppend_wf {m : Memory} (b : Byte) (h : m.length < Config.maxBuf) : (bufAppend m b).wf = true := by
  simp [Memory.wf, bufAppend] at *; omega

theorem empty_wf : Memory.wf [] = true := rfl

theorem reset_buf_wf : State.reset.buf.wf = true := rfl

/-- The buffer's cells list each address once, in rising order. -/
theorem cells_rising (m : Memory) : (m.cells.map Prod.fst).Pairwise (· < ·) := by
  have : m.cells.map Prod.fst = List.range m.length := by
    apply List.ext_getElem <;> simp [Memory.cells]
  rw [this]; exact List.pairwise_lt_range

theorem wordOfBytes_toNat (lo hi : Byte) : (wordOfBytes lo hi).toNat = lo.toNat + 256 * hi.toNat := by
  have h := lo.isLt
  show (BitVec.append hi lo).toNat = _
  have : (hi ++ lo).toNat = hi.toNat <<< 8 ||| lo.toNat := BitVec.toNat_append hi lo
  rw [show (BitVec.append hi lo).toNat = (hi ++ lo).toNat from rfl, this, Nat.shiftLeft_eq, Nat.mul_comm,
    ← Nat.two_pow_add_eq_or_of_lt h]
  omega

theorem char1_toNat (w : Word) : (char1 w).toNat = w.toNat % 256 := by
  simp [char1, BitVec.extractLsb'_toNat]

theorem char2_toNat (w : Word) : (char2 w).toNat = w.toNat / 256 := by
  have := w.isLt
  simp [char2, BitVec.extractLsb'_toNat, Nat.shiftRight_eq_div_pow]
  omega

@[simp] theorem char1_wordOfBytes (lo hi : Byte) : char1 (wordOfBytes lo hi) = lo := by
  have := lo.isLt
  apply BitVec.eq_of_toNat_eq; rw [char1_toNat, wordOfBytes_toNat]; omega

@[simp] theorem char2_wordOfBytes (lo hi : Byte) : char2 (wordOfBytes lo hi) = hi := by
  have := lo.isLt
  apply BitVec.eq_of_toNat_eq; rw [char2_toNat, wordOfBytes_toNat]; omega

@[simp] theorem wordOfBytes_chars (w : Word) : wordOfBytes (char1 w) (char2 w) = w := by
  apply BitVec.eq_of_toNat_eq; rw [wordOfBytes_toNat, char1_toNat, char2_toNat]; omega

/-- Word `i` is `w` exactly when `w`'s two bytes stand at `2i` and `2i + 1`, the low one first. -/
theorem wordAt_eq_some_iff {m : Memory} {i : Nat} {w : Word} :
    wordAt m i = some w ↔ m[2 * i]? = some (char1 w) ∧ m[2 * i + 1]? = some (char2 w) := by
  unfold wordAt readByte
  constructor
  · intro h
    split at h
    · simp only [Option.some.injEq] at h; subst h; simp_all
    · simp at h
  · rintro ⟨h1, h2⟩; simp [h1, h2]

theorem wordAt_isSome {m : Memory} {i : Nat} (h : 2 * i + 1 < m.length) : ∃ w, wordAt m i = some w :=
  ⟨wordOfBytes (m[2 * i]'(by omega)) m[2 * i + 1], by
    rw [wordAt_eq_some_iff]; simp⟩

theorem wordAt_take {m : Memory} {n i : Nat} (h : 2 * i + 1 < n) : wordAt (m.take n) i = wordAt m i := by
  simp [wordAt, readByte, h, show 2 * i < n by omega]

/-- A frame of at least 114 bytes has all its 57 words (R99). -/
theorem exists_words {m : Memory} (h : 114 ≤ m.length) : ∃ W : Nat → Word, ∀ i, i < 57 → wordAt m i = some (W i) := by
  refine ⟨fun i => (wordAt m i).getD 0, fun i hi => ?_⟩
  obtain ⟨w, hw⟩ := wordAt_isSome (m := m) (i := i) (by omega)
  simp [hw]

theorem lengthPrefix_eq_wordAt (m : Memory) : lengthPrefix m = wordAt m 0 := by
  rcases m with _ | ⟨a, _ | ⟨b, m⟩⟩ <;> simp [lengthPrefix, wordAt, readByte]

theorem lengthPrefix_eq_none_iff (m : Memory) : lengthPrefix m = none ↔ m.length < 2 := by
  rcases m with _ | ⟨a, _ | ⟨b, m⟩⟩ <;> simp [lengthPrefix]

theorem lengthPrefix_append {m : Memory} (b : Byte) (h : 2 ≤ m.length) :
    lengthPrefix (m ++ [b]) = lengthPrefix m := by
  rcases m with _ | ⟨a, _ | ⟨c, m⟩⟩ <;> simp [lengthPrefix] at *

/-- Reading `n` bytes exists exactly inside the buffer (R13). -/
theorem memRead_isSome_iff (m : Memory) (a n : Nat) : (memRead m a n).isSome ↔ a + n ≤ m.length := by
  induction n generalizing a with
  | zero => simp [memRead]
  | succ n ih =>
    have := ih (a + 1)
    unfold memRead
    split
    · rename_i b r h1 h2
      have h3 := this.mp (by simp [h2])
      simp only [Option.isSome_some, true_iff]; omega
    · rename_i hno
      simp only [Option.isSome_none, Bool.false_eq_true, false_iff]
      intro h
      have h3 := this.mpr (by omega)
      obtain ⟨r, hr⟩ := Option.isSome_iff_exists.mp h3
      exact hno m[a] r (by simp [readByte]) hr

/-- The word view is the two-byte read (R13, R32). -/
theorem memRead_two (m : Memory) (i : Nat) : memRead m (2 * i) 2 = (wordAt m i).map BitVec.toNat := by
  by_cases h : 2 * i + 1 < m.length
  · simp [memRead, wordAt, readByte, h, show 2 * i < m.length by omega, show 2 * i + 1 + 1 ≤ m.length by omega,
      wordOfBytes_toNat]
  · have h1 : memRead m (2 * i) 2 = none := by
      rw [← Option.not_isSome_iff_eq_none, memRead_isSome_iff]; omega
    have h2 : wordAt m i = none := by
      simp [wordAt, readByte, show ¬ 2 * i + 1 < m.length from h]
    rw [h1, h2]; rfl

end Sys2Proof.Machine
end

