-- ==== Sys2Proof/Laws/Checksum.lean ====
section
/-! SUPPORT. The XOR-fold: how it splits over ranges, its two byte lanes, and when CHK_VALIDATE answers. -/

namespace Sys2Proof.Machine

theorem wordOfBytes_xor (a b c d : Byte) :
    wordOfBytes a b ^^^ wordOfBytes c d = wordOfBytes (a ^^^ c) (b ^^^ d) := by
  apply BitVec.eq_of_getLsbD_eq
  intro i hi
  have key : ∀ lo hi : Byte, (wordOfBytes lo hi).getLsbD i = if i < 8 then lo.getLsbD i else hi.getLsbD (i - 8) := by
    intro lo hi
    exact BitVec.getLsbD_append
  rw [BitVec.getLsbD_xor, key, key, key]
  split <;> simp

@[simp] theorem chkCompute_nil : chkCompute [] = 0#16 := rfl

theorem chkFold_start (ps : List (Byte × Byte)) (acc : Word) :
    ps.foldl (fun acc p => acc ^^^ wordOfBytes p.1 p.2) acc = acc ^^^ chkCompute ps := by
  induction ps generalizing acc with
  | nil => simp [chkCompute]
  | cons p ps ih =>
    have h : chkCompute (p :: ps) = (0#16 ^^^ wordOfBytes p.1 p.2) ^^^ chkCompute ps := ih _
    rw [List.foldl_cons, ih, h, BitVec.zero_xor, BitVec.xor_assoc]

/-- The fold of one word more is that word XORed in. -/
theorem chkCompute_cons (p : Byte × Byte) (ps : List (Byte × Byte)) :
    chkCompute (p :: ps) = wordOfBytes p.1 p.2 ^^^ chkCompute ps := by
  show (p :: ps).foldl _ _ = _
  rw [List.foldl_cons, chkFold_start, BitVec.zero_xor]

theorem chkCompute_append (ps qs : List (Byte × Byte)) :
    chkCompute (ps ++ qs) = chkCompute ps ^^^ chkCompute qs := by
  show (ps ++ qs).foldl _ _ = _
  rw [List.foldl_append, chkFold_start]; rfl

/-- The XOR of a list of bytes: one lane of the fold (R84). -/
def xorBytes (bs : List Byte) : Byte :=
  bs.foldl (· ^^^ ·) 0#8

theorem xorFold_start (bs : List Byte) (acc : Byte) : bs.foldl (· ^^^ ·) acc = acc ^^^ xorBytes bs := by
  induction bs generalizing acc with
  | nil => simp [xorBytes]
  | cons b bs ih =>
    have h : xorBytes (b :: bs) = (0#8 ^^^ b) ^^^ xorBytes bs := ih _
    rw [List.foldl_cons, ih, h, BitVec.zero_xor, BitVec.xor_assoc]

theorem xorBytes_cons (b : Byte) (bs : List Byte) : xorBytes (b :: bs) = b ^^^ xorBytes bs := by
  show (b :: bs).foldl _ _ = _
  rw [List.foldl_cons, xorFold_start, BitVec.zero_xor]

/-- The lane form of the fold (R84): low byte from the low bytes, high byte from the high bytes. -/
theorem chkCompute_lanes (ps : List (Byte × Byte)) :
    chkCompute ps = wordOfBytes (xorBytes (ps.map Prod.fst)) (xorBytes (ps.map Prod.snd)) := by
  induction ps with
  | nil => rfl
  | cons p ps ih =>
    rw [chkCompute_cons, ih, wordOfBytes_xor, List.map_cons, List.map_cons, xorBytes_cons, xorBytes_cons]

/-- The order of the fold cannot be seen (R81). -/
theorem chkCompute_perm {ps qs : List (Byte × Byte)} (h : ps.Perm qs) : chkCompute ps = chkCompute qs := by
  induction h with
  | nil => rfl
  | cons p _ ih => rw [chkCompute_cons, chkCompute_cons, ih]
  | swap p q l => simp only [chkCompute_cons, ← BitVec.xor_assoc, BitVec.xor_comm]
  | trans _ _ ih1 ih2 => exact ih1.trans ih2

/-- The first 112 bytes of a frame pair up. -/
theorem pairUp_chkRange {m : Memory} (h : 112 ≤ m.length) : ∃ ps, pairUp (m.take 112) = some ps := by
  apply Option.isSome_iff_exists.mp
  rw [pairUp_isSome_iff]; simp; omega

/-- CHK_VALIDATE on a frame past the guard (R83): the fold of bytes 0 to 111 and word 56. -/
theorem chkValidate_eq {m : Memory} {ps : List (Byte × Byte)} {r : Word}
    (hp : pairUp (m.take 112) = some ps) (hr : wordAt m 56 = some r) :
    chkValidate m = some { computed := chkCompute ps, received := r, isValid := chkCompute ps == r } := by
  simp [chkValidate, hp, hr, isValid]

theorem chkValidate_isSome {m : Memory} (h : 114 ≤ m.length) : ∃ r, chkValidate m = some r := by
  obtain ⟨ps, hps⟩ := pairUp_chkRange (m := m) (by omega)
  obtain ⟨w, hw⟩ := wordAt_isSome (m := m) (i := 56) (by omega)
  exact ⟨_, chkValidate_eq hps hw⟩

theorem chkValidate_eq_none {m : Memory} (h : m.length < 114) : chkValidate m = none := by
  have hw : wordAt m 56 = none := by
    simp [wordAt, readByte, show ¬ 113 < m.length by omega]
  simp [chkValidate, hw]

/-- A ChecksumResult's flag is the equality of its two words (R83). -/
theorem chkValidate_isValid {m : Memory} {r : ChecksumResult} (h : chkValidate m = some r) :
    r.isValid = (r.computed == r.received) := by
  simp only [chkValidate] at h
  split at h
  · simp only [Option.some.injEq] at h; subst h; rfl
  · simp at h

/-- CHK_VALIDATE reads bytes 0 to 113 only (R83). -/
theorem chkValidate_take {m : Memory} : chkValidate (m.take 114) = chkValidate m := by
  simp [chkValidate, List.take_take, wordAt_take]

end Sys2Proof.Machine
end

