-- ==== Sys2Proof/Laws/Parser.lean ====
section
/-! SUPPORT. The decode pass: what each kind of payload is when the frame's words are known, the pass's 32 events written
out, and that it depends on the first 114 bytes alone. -/

namespace Sys2Proof.Machine

section payloads

variable {m : Memory} {i : Nat}

theorem u16Payload_eq {w : Word} (h : wordAt m i = some w) : u16Payload m i = some (.u16 w) := by
  simp [u16Payload, h]

theorem scaledPayload_eq {k : Nat} {w : Word} (h : wordAt m i = some w) :
    scaledPayload k m i = some (.scaled k w) := by
  simp [scaledPayload, h]

theorem ascii2Payload_eq {w : Word} (h : wordAt m i = some w) :
    ascii2Payload m i = some (.ascii2 (char1 w) (char2 w)) := by
  simp [ascii2Payload, h]

theorem ascii4Payload_eq {v w : Word} (hv : wordAt m i = some v) (hw : wordAt m (i + 1) = some w) :
    ascii4Payload m i = some (.ascii4 (char1 v) (char2 v) (char1 w) (char2 w)) := by
  simp [ascii4Payload, hv, hw]

theorem u16x6Payload_eq {t0 t1 t2 t3 t4 t5 : Word} (h0 : wordAt m i = some t0) (h1 : wordAt m (i + 1) = some t1)
    (h2 : wordAt m (i + 2) = some t2) (h3 : wordAt m (i + 3) = some t3) (h4 : wordAt m (i + 4) = some t4)
    (h5 : wordAt m (i + 5) = some t5) : u16x6Payload m i = some (.u16x6 t0 t1 t2 t3 t4 t5) := by
  simp [u16x6Payload, h0, h1, h2, h3, h4, h5]

theorem floatAt_eq {lo hi : Word} (hlo : wordAt m i = some lo) (hhi : wordAt m (i + 1) = some hi) :
    floatAt m i = some (f32Decode lo hi) := by
  simp [floatAt, hlo, hhi]

theorem f32x3Payload_eq {x y z : Pattern} (hx : floatAt m i = some x) (hy : floatAt m (i + 2) = some y)
    (hz : floatAt m (i + 4) = some z) : f32x3Payload m i = some (.f32x3 x y z) := by
  simp [f32x3Payload, hx, hy, hz]

end payloads

/-- A row's event on a frame past the guard: one event over the frame's time range (R98, R100). -/
theorem fieldEvent_eq {f : Frame} {id : FieldId} {p : Payload} (h : 114 ≤ f.bytes.length) :
    fieldEvent f id (some p) = [{ startTime := f.start, endTime := f.stop, fieldId := id, payload := p }] := by
  simp [fieldEvent, Nat.not_lt.mpr h]

/-- No row emits on a frame of fewer than 114 bytes (R98). -/
theorem fieldEvent_short {f : Frame} {id : FieldId} {p : Option Payload} (h : f.bytes.length < 114) :
    fieldEvent f id p = [] := by
  simp [fieldEvent, h]

/-- A short frame gives no event (R98). -/
theorem decodePass_short {f : Frame} (h : f.bytes.length < 114) : decodePass f = [] := by
  simp [decodePass, h]

/-- The events of identifiers 1 to 30 on a frame whose words are `W` (R106 to R135). -/
def fieldEvents (fs fe : Time) (W : Nat → Word) : List FieldEvent :=
  ([
    (.length, .u16 (W 0)),
    (.msgType, .u16 (W 1)),
    (.depth, .scaled 1 (W 2)),
    (.waterPressure, .scaled 2 (W 3)),
    (.waterTemp, .scaled 1 (W 4)),
    (.enclTemp, .scaled 1 (W 5)),
    (.enclHumidity, .scaled 1 (W 6)),
    (.airPressure, .scaled 1 (W 7)),
    (.heading, .scaled 1 (W 8)),
    (.headingToTarget, .scaled 1 (W 9)),
    (.distanceToTarget, .scaled 1 (W 10)),
    (.journeyCourse, .scaled 1 (W 11)),
    (.journeyDistance, .scaled 2 (W 12)),
    (.displayLabel, .ascii2 (char1 (W 13)) (char2 (W 13))),
    (.makoSecondsOn, .u16 (W 14)),
    (.makoUserAction, .u16 (W 15)),
    (.badChecksumCount, .u16 (W 16)),
    (.usbVoltage, .scaled 3 (W 17)),
    (.usbCurrent, .scaled 2 (W 18)),
    (.targetCode, .ascii4 (char1 (W 19)) (char2 (W 19)) (char1 (W 20)) (char2 (W 20))),
    (.sensorTiming, .u16x6 (W 21) (W 22) (W 23) (W 24) (W 25) (W 26)),
    (.accel, .f32x3 (f32Decode (W 27) (W 28)) (f32Decode (W 29) (W 30)) (f32Decode (W 31) (W 32))),
    (.gyro, .f32x3 (f32Decode (W 33) (W 34)) (f32Decode (W 35) (W 36)) (f32Decode (W 37) (W 38))),
    (.linAccel, .f32x3 (f32Decode (W 39) (W 40)) (f32Decode (W 41) (W 42)) (f32Decode (W 43) (W 44))),
    (.rotAccel, .f32x3 (f32Decode (W 45) (W 46)) (f32Decode (W 47) (W 48)) (f32Decode (W 49) (W 50))),
    (.goodChecksumCount, .u16 (W 51)),
    (.waymarkerId, .u16 (W 52)),
    (.waymarkerLabel, .ascii2 (char1 (W 53)) (char2 (W 53))),
    (.directionMetric, .ascii2 (char1 (W 54)) (char2 (W 54))),
    (.flags, .u16 (W 55))] : List (FieldId × Payload)).map fun (id, p) =>
    { startTime := fs, endTime := fe, fieldId := id, payload := p }

/-- The checksum event and the summary (R136, R137). -/
def closingEvents (fs fe : Time) (W : Nat → Word) (r : ChecksumResult) : List FieldEvent :=
  ([(if r.isValid then .checksumOk else .checksumError, .chk r.computed r.received),
    (.summary, .sum (W 0) (W 1) r.isValid)] : List (FieldId × Payload)).map fun (id, p) =>
    { startTime := fs, endTime := fe, fieldId := id, payload := p }

/-- The whole pass, event by event, on a frame whose 57 words are `W` (R97). -/
theorem decodePass_eq {f : Frame} {W : Nat → Word} {r : ChecksumResult} (h : 114 ≤ f.bytes.length)
    (hW : ∀ i, i < 57 → wordAt f.bytes i = some (W i)) (hr : chkValidate f.bytes = some r) :
    decodePass f = fieldEvents f.start f.stop W ++ closingEvents f.start f.stop W r := by
  have hn : ¬ f.bytes.length < 114 := by omega
  have hF : ∀ i, i < 56 → floatAt f.bytes i = some (f32Decode (W i) (W (i + 1))) :=
    fun i hi => floatAt_eq (hW i (by omega)) (hW (i + 1) (by omega))
  simp only [decodePass, Config.frameBytes, hn, if_false, evLength, evMsgType, evDepth, evWaterPressure, evWaterTemp, evEnclTemp, evEnclHumidity, evAirPressure, evHeading, evHeadingToTarget, evDistanceToTarget, evJourneyCourse, evJourneyDistance, evDisplayLabel, evMakoSecondsOn, evMakoUserAction, evBadChecksumCount, evUsbVoltage, evUsbCurrent, evTargetCode, evSensorTiming, evAccel, evGyro, evLinAccel, evRotAccel, evGoodChecksumCount, evWaymarkerId, evWaymarkerLabel, evDirectionMetric, evFlags, evChecksumOk, evChecksumError, evSummary,
    summaryPayload, hr]
  simp (disch := decide) only [u16Payload, scaledPayload, ascii2Payload, ascii4Payload, u16x6Payload, f32x3Payload,
    Nat.reduceAdd, hW, hF, Option.map_some, fieldEvent_eq h]
  cases hv : r.isValid <;> simp [fieldEvents, closingEvents, hv]

/-- Every frame is short, or has its words, its ChecksumResult and the pass written out. -/
theorem decodePass_cases (f : Frame) :
    (f.bytes.length < 114 ∧ decodePass f = []) ∨
    (114 ≤ f.bytes.length ∧ ∃ W r, (∀ i, i < 57 → wordAt f.bytes i = some (W i)) ∧ chkValidate f.bytes = some r ∧
      decodePass f = fieldEvents f.start f.stop W ++ closingEvents f.start f.stop W r) := by
  by_cases h : f.bytes.length < 114
  · exact .inl ⟨h, decodePass_short h⟩
  · have h' : 114 ≤ f.bytes.length := by omega
    obtain ⟨W, hW⟩ := exists_words h'
    obtain ⟨r, hr⟩ := chkValidate_isSome h'
    exact .inr ⟨h', W, r, hW, hr, decodePass_eq h' hW hr⟩

@[simp] theorem fieldEvents_length (fs fe : Time) (W : Nat → Word) : (fieldEvents fs fe W).length = 30 := rfl

@[simp] theorem closingEvents_length (fs fe : Time) (W : Nat → Word) (r : ChecksumResult) :
    (closingEvents fs fe W r).length = 2 := rfl

/-- A pass past the guard gives 32 events (R102). -/
theorem decodePass_length {f : Frame} (h : 114 ≤ f.bytes.length) : (decodePass f).length = 32 := by
  rcases decodePass_cases f with ⟨h', _⟩ | ⟨_, W, r, _, _, hd⟩
  · omega
  · simp [hd]

/-- The pass is a function of the first 114 bytes and the two times (R99, R138). -/
theorem decodePass_congr {f g : Frame} (hf : 114 ≤ f.bytes.length) (hg : 114 ≤ g.bytes.length)
    (hb : f.bytes.take 114 = g.bytes.take 114) (hs : f.start = g.start) (he : f.stop = g.stop) :
    decodePass f = decodePass g := by
  obtain ⟨W, hW⟩ := exists_words hf
  obtain ⟨r, hr⟩ := chkValidate_isSome hf
  have hW' : ∀ i, i < 57 → wordAt g.bytes i = some (W i) := fun i hi => by
    rw [← wordAt_take (n := 114) (by omega), ← hb, wordAt_take (by omega), hW i hi]
  have hr' : chkValidate g.bytes = some r := by rw [← chkValidate_take, ← hb, chkValidate_take, hr]
  rw [decodePass_eq hf hW hr, decodePass_eq hg hW' hr', hs, he]

theorem fieldEvents_wellKinded {fs fe : Time} {W : Nat → Word} {e : FieldEvent} (h : e ∈ fieldEvents fs fe W) :
    e.wellKinded = true := by
  simp only [fieldEvents, List.map_cons, List.map_nil, List.mem_cons, List.not_mem_nil, or_false] at h
  repeat' rcases h with rfl | h
  all_goals rfl

theorem closingEvents_wellKinded {fs fe : Time} {W : Nat → Word} {r : ChecksumResult} {e : FieldEvent}
    (h : e ∈ closingEvents fs fe W r) : e.wellKinded = true := by
  simp only [closingEvents, List.map_cons, List.map_nil, List.mem_cons, List.not_mem_nil, or_false] at h
  rcases h with h | h
  · subst h; cases r.isValid <;> rfl
  · subst h; rfl

/-- Every event of a pass is of its identifier's kind (R50, R52); none has identifier 31. -/
theorem decodePass_wellKinded {f : Frame} {e : FieldEvent} (h : e ∈ decodePass f) : e.wellKinded = true := by
  rcases decodePass_cases f with ⟨_, hd⟩ | ⟨_, W, r, _, _, hd⟩
  · simp [hd] at h
  · rw [hd, List.mem_append] at h
    exact h.elim fieldEvents_wellKinded closingEvents_wellKinded

theorem fieldEvent_subset {f : Frame} {id : FieldId} {p : Option Payload} {e : FieldEvent}
    (h : e ∈ fieldEvent f id p) :
    ∃ q, p = some q ∧ e = { startTime := f.start, endTime := f.stop, fieldId := id, payload := q } := by
  unfold fieldEvent at h
  split at h
  · simp at h
  · split at h
    · rename_i q; exact ⟨q, rfl, by simpa using h⟩
    · simp at h

end Sys2Proof.Machine
end

