-- ==== Sys2Proof/Laws/Packing.lean ====
section
/-! SUPPORT. Packing as numbers: concatenation and bit fields, longer reads from shorter ones, and that a payload is read
back from its 96 bits. -/

namespace Sys2Proof.Machine

theorem append_toNat {n m : Nat} (a : BitVec n) (b : BitVec m) : (a ++ b).toNat = a.toNat * 2 ^ m + b.toNat := by
  rw [BitVec.toNat_append, Nat.shiftLeft_eq, Nat.mul_comm, ← Nat.two_pow_add_eq_or_of_lt b.isLt]

theorem extract_toNat {n : Nat} (a : BitVec n) (start len : Nat) :
    (a.extractLsb' start len).toNat = a.toNat / 2 ^ start % 2 ^ len := by
  rw [BitVec.extractLsb'_toNat, Nat.shiftRight_eq_div_pow]

theorem getLsbD_toNat {n : Nat} (a : BitVec n) (i : Nat) : a.getLsbD i = decide (a.toNat / 2 ^ i % 2 = 1) := by
  rw [← BitVec.testBit_toNat, Nat.testBit_eq_decide_div_mod_eq]

theorem f32Decode_toNat (lo hi : Word) : (f32Decode lo hi).toNat = lo.toNat + 65536 * hi.toNat := by
  show (hi ++ lo).toNat = _
  rw [append_toNat]; omega

/-- A read of `n + k` bytes is a read of `n` and one of `k` behind it (R13). -/
theorem memRead_add (m : Memory) (a n k : Nat) :
    memRead m a (n + k) = (memRead m a n).bind fun x => (memRead m (a + n) k).map fun y => x + 256 ^ n * y := by
  induction n generalizing a with
  | zero =>
    simp only [Nat.zero_add, memRead, Nat.add_zero]
    split
    · simp
    · have := memRead_isSome_iff m a k
      simp only [Option.bind_none]
      rw [← Option.not_isSome_iff_eq_none, this]; omega
  | succ n ih =>
    rw [Nat.add_right_comm, memRead, ih, memRead, show a + 1 + n = a + (n + 1) by omega]
    rcases readByte m a with _ | b
    · simp
    · rcases memRead m (a + 1) n with _ | x
      · simp
      · rcases memRead m (a + (n + 1)) k with _ | y
        · simp
        · have h : 256 ^ (n + 1) * y = 256 * (256 ^ n * y) := by
            rw [Nat.pow_succ, Nat.mul_comm (256 ^ n) 256, Nat.mul_assoc]
          simp only [Option.bind_some, Option.map_some, Option.some.injEq, h]
          omega

/-- One word more at the low end of a read (R13, R32). -/
theorem memRead_word (m : Memory) (i n : Nat) :
    memRead m (2 * i) (2 * (n + 1)) =
      (wordAt m i).bind fun w => (memRead m (2 * (i + 1)) (2 * n)).map fun y => w.toNat + 65536 * y := by
  rw [show 2 * (n + 1) = 2 + 2 * n by omega, memRead_add, memRead_two, show 2 * i + 2 = 2 * (i + 1) by omega]
  rcases wordAt m i with _ | w <;> simp

/-- The packing of R53 loses nothing. -/
theorem unpack_pack (p : Payload) : p.kind.unpack p.pack = p := by
  cases p with
  | sum len ty v =>
    have := len.isLt; have := ty.isLt
    simp only [Payload.kind, Payload.pack, Kind.unpack]
    congr 1
    · apply BitVec.eq_of_toNat_eq
      simp only [append_toNat, extract_toNat, BitVec.toNat_setWidth, Config.payloadBits]; cases v <;> simp <;> omega
    · apply BitVec.eq_of_toNat_eq
      simp only [append_toNat, extract_toNat, BitVec.toNat_setWidth, Config.payloadBits]; cases v <;> simp <;> omega
    · rw [getLsbD_toNat]
      simp only [append_toNat, BitVec.toNat_setWidth, Config.payloadBits]; cases v <;> simp <;> omega
  | u16x6 a b c d e f =>
    have := a.isLt; have := b.isLt; have := c.isLt; have := d.isLt; have := e.isLt; have := f.isLt
    simp only [Payload.kind, Payload.pack, Kind.unpack]
    congr 1 <;> apply BitVec.eq_of_toNat_eq <;>
      simp only [append_toNat, extract_toNat, BitVec.toNat_setWidth, Config.payloadBits] <;> omega
  | f32x3 a b c =>
    have := a.isLt; have := b.isLt; have := c.isLt
    simp only [Payload.kind, Payload.pack, Kind.unpack]
    congr 1 <;> apply BitVec.eq_of_toNat_eq <;>
      simp only [append_toNat, extract_toNat, BitVec.toNat_setWidth, Config.payloadBits] <;> omega
  | ascii4 a b c d =>
    have := a.isLt; have := b.isLt; have := c.isLt; have := d.isLt
    simp only [Payload.kind, Payload.pack, Kind.unpack]
    congr 1 <;> apply BitVec.eq_of_toNat_eq <;>
      simp only [append_toNat, extract_toNat, BitVec.toNat_setWidth, Config.payloadBits] <;> omega
  | ascii2 a b | chk a b =>
    have := a.isLt; have := b.isLt
    simp only [Payload.kind, Payload.pack, Kind.unpack]
    congr 1 <;> apply BitVec.eq_of_toNat_eq <;>
      simp only [append_toNat, extract_toNat, BitVec.toNat_setWidth, Config.payloadBits] <;> omega
  | u16 a | scaled k a =>
    have := a.isLt
    simp only [Payload.kind, Payload.pack, Kind.unpack]
    congr 1
    apply BitVec.eq_of_toNat_eq
    simp only [extract_toNat, BitVec.toNat_setWidth, Config.payloadBits]
    omega

end Sys2Proof.Machine
end

