-- ==== Sys2Proof/Laws/PerInstr.lean ====
section
/-! SUPPORT. The per-instruction family `DecodedWellFormed`: an instruction is read from a request only when it is well
formed, so the decoder never hands the machine an operand outside its domain. -/

namespace Sys2Proof.Laws.DecodedWellFormed

/-- Whatever request decodes to `i`, `i` is well formed. -/
def Statement (i : Instr) : Prop :=
  ∀ r, decode r = .ok i → i.wf = true

/-- The family's one proof, by the form of the request. -/
theorem of_decode (i : Instr) : Statement i := by
  intro r h
  cases r with
  | byteEvent b ss es => cases h; rfl
  | resetInput => cases h; rfl
  | tableRow c f =>
    simp only [Sys2Proof.decode] at h
    split at h
    · cases h
    · rename_i id hid
      obtain ⟨h1, h2, rfl⟩ := (checkFrame_eq_ok _ _ _ _).mp h
      rw [Instr.ofRow_wf, Frame.guarded_iff]; exact ⟨h1, h2⟩
  | callDecode f =>
    obtain ⟨h1, h2, rfl⟩ := (checkFrame_eq_ok _ _ _ _).mp h
    exact (Frame.completed_iff f).mpr ⟨h1, h2⟩
  | callChkCompute m =>
    simp only [Sys2Proof.decode] at h
    split at h
    · cases h
    · rename_i ps hps
      cases h; rfl
  | callChkValidate m =>
    simp only [Sys2Proof.decode] at h
    split at h
    · cases h
    · rename_i hm
      cases h
      exact decide_eq_true (Nat.not_lt.mp hm)
  | callF32Decode lo hi => cases h; rfl

theorem summary (f : Frame) : Statement (.summary f) := of_decode _
theorem length (f : Frame) : Statement (.length f) := of_decode _
theorem msgType (f : Frame) : Statement (.msgType f) := of_decode _
theorem depth (f : Frame) : Statement (.depth f) := of_decode _
theorem waterPressure (f : Frame) : Statement (.waterPressure f) := of_decode _
theorem waterTemp (f : Frame) : Statement (.waterTemp f) := of_decode _
theorem enclTemp (f : Frame) : Statement (.enclTemp f) := of_decode _
theorem enclHumidity (f : Frame) : Statement (.enclHumidity f) := of_decode _
theorem airPressure (f : Frame) : Statement (.airPressure f) := of_decode _
theorem heading (f : Frame) : Statement (.heading f) := of_decode _
theorem headingToTarget (f : Frame) : Statement (.headingToTarget f) := of_decode _
theorem distanceToTarget (f : Frame) : Statement (.distanceToTarget f) := of_decode _
theorem journeyCourse (f : Frame) : Statement (.journeyCourse f) := of_decode _
theorem journeyDistance (f : Frame) : Statement (.journeyDistance f) := of_decode _
theorem displayLabel (f : Frame) : Statement (.displayLabel f) := of_decode _
theorem makoSecondsOn (f : Frame) : Statement (.makoSecondsOn f) := of_decode _
theorem makoUserAction (f : Frame) : Statement (.makoUserAction f) := of_decode _
theorem badChecksumCount (f : Frame) : Statement (.badChecksumCount f) := of_decode _
theorem usbVoltage (f : Frame) : Statement (.usbVoltage f) := of_decode _
theorem usbCurrent (f : Frame) : Statement (.usbCurrent f) := of_decode _
theorem targetCode (f : Frame) : Statement (.targetCode f) := of_decode _
theorem sensorTiming (f : Frame) : Statement (.sensorTiming f) := of_decode _
theorem accel (f : Frame) : Statement (.accel f) := of_decode _
theorem gyro (f : Frame) : Statement (.gyro f) := of_decode _
theorem linAccel (f : Frame) : Statement (.linAccel f) := of_decode _
theorem rotAccel (f : Frame) : Statement (.rotAccel f) := of_decode _
theorem goodChecksumCount (f : Frame) : Statement (.goodChecksumCount f) := of_decode _
theorem waymarkerId (f : Frame) : Statement (.waymarkerId f) := of_decode _
theorem waymarkerLabel (f : Frame) : Statement (.waymarkerLabel f) := of_decode _
theorem directionMetric (f : Frame) : Statement (.directionMetric f) := of_decode _
theorem flags (f : Frame) : Statement (.flags f) := of_decode _
theorem reserved31 (f : Frame) : Statement (.reserved31 f) := of_decode _
theorem checksumOk (f : Frame) : Statement (.checksumOk f) := of_decode _
theorem checksumError (f : Frame) : Statement (.checksumError f) := of_decode _
theorem feed (b : Byte) (ss es : Time) : Statement (.feed b ss es) := of_decode _
theorem reset : Statement .reset := of_decode _
theorem decode (f : Frame) : Statement (.decode f) := of_decode _
theorem chkCompute (ps : List (Byte × Byte)) : Statement (.chkCompute ps) := of_decode _
theorem chkValidate (m : List Byte) : Statement (.chkValidate m) := of_decode _
theorem f32Decode (lo hi : Word) : Statement (.f32Decode lo hi) := of_decode _

end Sys2Proof.Laws.DecodedWellFormed
end

