-- ==== Sys2Proof/Laws/Step.lean ====
section
/-! SUPPORT. What each operation can do, said once: FEED by cases, every other instruction by one inversion lemma, and
one step; then that every step keeps the invariants. -/

namespace Sys2Proof.Machine

theorem u16Payload_kind {m : Memory} {i : Nat} {p : Payload} (h : u16Payload m i = some p) : p.kind = .u16 := by
  simp only [u16Payload, Option.map_eq_some_iff] at h
  obtain ⟨w, _, rfl⟩ := h; rfl

theorem scaledPayload_kind {k : Nat} {m : Memory} {i : Nat} {p : Payload} (h : scaledPayload k m i = some p) :
    p.kind = .scaled k := by
  simp only [scaledPayload, Option.map_eq_some_iff] at h
  obtain ⟨w, _, rfl⟩ := h; rfl

theorem ascii2Payload_kind {m : Memory} {i : Nat} {p : Payload} (h : ascii2Payload m i = some p) :
    p.kind = .ascii2 := by
  simp only [ascii2Payload, Option.map_eq_some_iff] at h
  obtain ⟨w, _, rfl⟩ := h; rfl

theorem ascii4Payload_kind {m : Memory} {i : Nat} {p : Payload} (h : ascii4Payload m i = some p) :
    p.kind = .ascii4 := by
  unfold ascii4Payload at h; split at h <;> simp at h; subst h; rfl

theorem u16x6Payload_kind {m : Memory} {i : Nat} {p : Payload} (h : u16x6Payload m i = some p) :
    p.kind = .u16x6 := by
  unfold u16x6Payload at h; split at h <;> simp at h; subst h; rfl

theorem f32x3Payload_kind {m : Memory} {i : Nat} {p : Payload} (h : f32x3Payload m i = some p) :
    p.kind = .f32x3 := by
  unfold f32x3Payload at h; split at h <;> simp at h; subst h; rfl

theorem summaryPayload_kind {m : Memory} {p : Payload} (h : summaryPayload m = some p) : p.kind = .sum := by
  unfold summaryPayload at h; split at h <;> simp at h; subst h; rfl

/-- A row's event is of its identifier's kind, when its payload is. -/
theorem fieldEvent_wellKinded {f : Frame} {id : FieldId} {p : Option Payload} {k : Kind} {e : FieldEvent}
    (hk : fieldKind id = some k) (hp : ∀ q, p = some q → q.kind = k) (h : e ∈ fieldEvent f id p) :
    e.wellKinded = true := by
  obtain ⟨q, hq, rfl⟩ := fieldEvent_subset h
  simp [FieldEvent.wellKinded, hk, hp q hq]

theorem evChecksumOk_wellKinded {f : Frame} {e : FieldEvent} (h : e ∈ evChecksumOk f) : e.wellKinded = true := by
  unfold evChecksumOk at h
  split at h
  · split at h
    · exact fieldEvent_wellKinded (k := .chk) rfl (by rintro q ⟨⟩; rfl) h
    · simp at h
  · simp at h

theorem evChecksumError_wellKinded {f : Frame} {e : FieldEvent} (h : e ∈ evChecksumError f) : e.wellKinded = true := by
  unfold evChecksumError at h
  split at h
  · split at h
    · simp at h
    · exact fieldEvent_wellKinded (k := .chk) rfl (by rintro q ⟨⟩; rfl) h
  · simp at h

/-- Everything an instruction other than FEED and RESET can do: deliver events of the right kinds, or answer a value.
The assembler's three elements and the input stay as they are (R138, R26). -/
theorem exec_cases {i : Instr} {s t : State} (h : exec i s = .next t) :
    (∃ b ss es, i = .feed b ss es) ∨ i = .reset ∨
    (∃ evs, t = s.deliver evs ∧ ∀ e ∈ evs, e.wellKinded = true) ∨
    (∃ r, t = s.answer r ∧ ∀ evs, r ≠ .events evs) := by
  cases i
  case summary f => cases h; exact .inr (.inr (.inl ⟨_, rfl, fun _ => fieldEvent_wellKinded rfl fun _ => summaryPayload_kind⟩))
  case length f => cases h; exact .inr (.inr (.inl ⟨_, rfl, fun _ => fieldEvent_wellKinded rfl fun _ => u16Payload_kind⟩))
  case msgType f => cases h; exact .inr (.inr (.inl ⟨_, rfl, fun _ => fieldEvent_wellKinded rfl fun _ => u16Payload_kind⟩))
  case depth f => cases h; exact .inr (.inr (.inl ⟨_, rfl, fun _ => fieldEvent_wellKinded rfl fun _ => scaledPayload_kind⟩))
  case waterPressure f => cases h; exact .inr (.inr (.inl ⟨_, rfl, fun _ => fieldEvent_wellKinded rfl fun _ => scaledPayload_kind⟩))
  case waterTemp f => cases h; exact .inr (.inr (.inl ⟨_, rfl, fun _ => fieldEvent_wellKinded rfl fun _ => scaledPayload_kind⟩))
  case enclTemp f => cases h; exact .inr (.inr (.inl ⟨_, rfl, fun _ => fieldEvent_wellKinded rfl fun _ => scaledPayload_kind⟩))
  case enclHumidity f => cases h; exact .inr (.inr (.inl ⟨_, rfl, fun _ => fieldEvent_wellKinded rfl fun _ => scaledPayload_kind⟩))
  case airPressure f => cases h; exact .inr (.inr (.inl ⟨_, rfl, fun _ => fieldEvent_wellKinded rfl fun _ => scaledPayload_kind⟩))
  case heading f => cases h; exact .inr (.inr (.inl ⟨_, rfl, fun _ => fieldEvent_wellKinded rfl fun _ => scaledPayload_kind⟩))
  case headingToTarget f => cases h; exact .inr (.inr (.inl ⟨_, rfl, fun _ => fieldEvent_wellKinded rfl fun _ => scaledPayload_kind⟩))
  case distanceToTarget f => cases h; exact .inr (.inr (.inl ⟨_, rfl, fun _ => fieldEvent_wellKinded rfl fun _ => scaledPayload_kind⟩))
  case journeyCourse f => cases h; exact .inr (.inr (.inl ⟨_, rfl, fun _ => fieldEvent_wellKinded rfl fun _ => scaledPayload_kind⟩))
  case journeyDistance f => cases h; exact .inr (.inr (.inl ⟨_, rfl, fun _ => fieldEvent_wellKinded rfl fun _ => scaledPayload_kind⟩))
  case displayLabel f => cases h; exact .inr (.inr (.inl ⟨_, rfl, fun _ => fieldEvent_wellKinded rfl fun _ => ascii2Payload_kind⟩))
  case makoSecondsOn f => cases h; exact .inr (.inr (.inl ⟨_, rfl, fun _ => fieldEvent_wellKinded rfl fun _ => u16Payload_kind⟩))
  case makoUserAction f => cases h; exact .inr (.inr (.inl ⟨_, rfl, fun _ => fieldEvent_wellKinded rfl fun _ => u16Payload_kind⟩))
  case badChecksumCount f => cases h; exact .inr (.inr (.inl ⟨_, rfl, fun _ => fieldEvent_wellKinded rfl fun _ => u16Payload_kind⟩))
  case usbVoltage f => cases h; exact .inr (.inr (.inl ⟨_, rfl, fun _ => fieldEvent_wellKinded rfl fun _ => scaledPayload_kind⟩))
  case usbCurrent f => cases h; exact .inr (.inr (.inl ⟨_, rfl, fun _ => fieldEvent_wellKinded rfl fun _ => scaledPayload_kind⟩))
  case targetCode f => cases h; exact .inr (.inr (.inl ⟨_, rfl, fun _ => fieldEvent_wellKinded rfl fun _ => ascii4Payload_kind⟩))
  case sensorTiming f => cases h; exact .inr (.inr (.inl ⟨_, rfl, fun _ => fieldEvent_wellKinded rfl fun _ => u16x6Payload_kind⟩))
  case accel f => cases h; exact .inr (.inr (.inl ⟨_, rfl, fun _ => fieldEvent_wellKinded rfl fun _ => f32x3Payload_kind⟩))
  case gyro f => cases h; exact .inr (.inr (.inl ⟨_, rfl, fun _ => fieldEvent_wellKinded rfl fun _ => f32x3Payload_kind⟩))
  case linAccel f => cases h; exact .inr (.inr (.inl ⟨_, rfl, fun _ => fieldEvent_wellKinded rfl fun _ => f32x3Payload_kind⟩))
  case rotAccel f => cases h; exact .inr (.inr (.inl ⟨_, rfl, fun _ => fieldEvent_wellKinded rfl fun _ => f32x3Payload_kind⟩))
  case goodChecksumCount f => cases h; exact .inr (.inr (.inl ⟨_, rfl, fun _ => fieldEvent_wellKinded rfl fun _ => u16Payload_kind⟩))
  case waymarkerId f => cases h; exact .inr (.inr (.inl ⟨_, rfl, fun _ => fieldEvent_wellKinded rfl fun _ => u16Payload_kind⟩))
  case waymarkerLabel f => cases h; exact .inr (.inr (.inl ⟨_, rfl, fun _ => fieldEvent_wellKinded rfl fun _ => ascii2Payload_kind⟩))
  case directionMetric f => cases h; exact .inr (.inr (.inl ⟨_, rfl, fun _ => fieldEvent_wellKinded rfl fun _ => ascii2Payload_kind⟩))
  case flags f => cases h; exact .inr (.inr (.inl ⟨_, rfl, fun _ => fieldEvent_wellKinded rfl fun _ => u16Payload_kind⟩))
  case reserved31 f => cases h
  case checksumOk f => cases h; exact .inr (.inr (.inl ⟨_, rfl, fun _ => evChecksumOk_wellKinded⟩))
  case checksumError f => cases h; exact .inr (.inr (.inl ⟨_, rfl, fun _ => evChecksumError_wellKinded⟩))
  case feed b ss es => exact .inl ⟨b, ss, es, rfl⟩
  case reset => exact .inr (.inl rfl)
  case decode f => cases h; exact .inr (.inr (.inl ⟨_, rfl, fun _ => decodePass_wellKinded⟩))
  case chkCompute ps => cases h; exact .inr (.inr (.inr ⟨_, rfl, fun _ => Returned.noConfusion⟩))
  case chkValidate m =>
    change execChkValidate m s = _ at h
    unfold execChkValidate at h
    split at h <;> cases h
    exact .inr (.inr (.inr ⟨_, rfl, fun _ => Returned.noConfusion⟩))
  case f32Decode lo hi => cases h; exact .inr (.inr (.inr ⟨_, rfl, fun _ => Returned.noConfusion⟩))

/-- Everything FEED can do: complete the frame and clear, or keep accumulating (R66). -/
theorem execFeed_cases {b : Byte} {ss es : Time} {s t : State} (h : execFeed b ss es s = .next t) :
    ((s.accumulate b ss).complete = true ∧ ∃ start, (s.accumulate b ss).tsStart = some start ∧
      t = ((s.accumulate b ss).clear.deliver
        (decodePass { bytes := (s.accumulate b ss).buf, start := start, stop := es }))) ∨
    ((s.accumulate b ss).complete = false ∧ t = (s.accumulate b ss).deliver []) := by
  unfold execFeed at h
  simp only at h
  split at h
  · rename_i hc
    split at h
    · rename_i start hs; cases h; exact .inl ⟨hc, start, hs, rfl⟩
    · cases h
  · rename_i hc; cases h; exact .inr ⟨by simpa using hc, rfl⟩

/-- FEED of a byte that does not complete the frame (R69). -/
theorem execFeed_incomplete {b : Byte} {ss es : Time} {s : State} (hc : (s.accumulate b ss).complete = false) :
    execFeed b ss es s = .next ((s.accumulate b ss).deliver []) := by
  simp [execFeed, hc]

/-- FEED of the byte that completes the frame (R69, R70). -/
theorem execFeed_complete {b : Byte} {ss es start : Time} {s : State} (hc : (s.accumulate b ss).complete = true)
    (hs : (s.accumulate b ss).tsStart = some start) :
    execFeed b ss es s = .next ((s.accumulate b ss).clear.deliver
      (decodePass { bytes := (s.accumulate b ss).buf, start := start, stop := es })) := by
  simp only [execFeed, hc, hs, if_true]

/-- After the append there is a start time, in every state R18 allows. -/
theorem accumulate_tsStart {s : State} (hi : AssemblyInv s) (b : Byte) (ss : Time) :
    ∃ start, (s.accumulate b ss).tsStart = some start := by
  by_cases hb : s.buf = []
  · exact ⟨ss, by simp [hb]⟩
  · rcases hts : s.tsStart with _ | v
    · exact absurd (hi.startUnset.mp hts) hb
    · exact ⟨v, by simp [hb, hts]⟩

/-- FEED never stops in a state R18 allows (R186). -/
theorem execFeed_next {s : State} (hi : AssemblyInv s) (b : Byte) (ss es : Time) :
    ∃ t, execFeed b ss es s = .next t := by
  obtain ⟨start, hs⟩ := accumulate_tsStart hi b ss
  unfold execFeed
  simp only [hs]
  split <;> exact ⟨_, rfl⟩

theorem clear_inv (s : State) (evs : List FieldEvent) : AssemblyInv (s.clear.deliver evs) := by
  constructor <;> simp

/-- The latch holds exactly when two bytes are in, and is the prefix (R18 (I-b), (I-c)). -/
theorem accumulate_expLen {s : State} (hi : AssemblyInv s) (b : Byte) (ss : Time) :
    (s.accumulate b ss).expLen = lengthPrefix (s.buf ++ [b]) := by
  rw [State.accumulate_expLen]
  split
  · rfl
  · rename_i hne
    rcases he : s.expLen with _ | l
    · exact absurd he hne
    · have h2 : 2 ≤ s.buf.length := by
        have h : ¬ s.buf.length < 2 := fun h => hne (hi.lengthUnset.mpr h)
        omega
      rw [lengthPrefix_append b h2, hi.lengthIsPrefix l he]

/-- FEED keeps the invariants of R18. -/
theorem execFeed_inv {b : Byte} {ss es : Time} {s t : State} (hi : AssemblyInv s) (h : execFeed b ss es s = .next t) :
    AssemblyInv t := by
  rcases execFeed_cases h with ⟨_, start, _, rfl⟩ | ⟨hc, rfl⟩
  · exact clear_inv _ _
  · have he := accumulate_expLen hi b ss
    obtain ⟨start, hs⟩ := accumulate_tsStart hi b ss
    constructor
    · simp only [State.deliver_tsStart, State.deliver_buf, hs]; simp
    · simp only [State.deliver_expLen, State.deliver_buf, he, State.accumulate_buf, lengthPrefix_eq_none_iff]
    · intro l hl
      simp only [State.deliver_expLen, he] at hl
      simpa only [State.deliver_buf, State.accumulate_buf] using hl
    · intro l hl
      simp only [State.deliver_expLen] at hl
      simp only [State.complete, hl, decide_eq_false_iff_not, Nat.not_le] at hc
      simpa only [State.deliver_buf] using hc

/-- Every instruction keeps the invariants of R18. -/
theorem exec_inv {i : Instr} {s t : State} (hi : AssemblyInv s) (h : exec i s = .next t) : AssemblyInv t := by
  rcases exec_cases h with ⟨b, ss, es, rfl⟩ | rfl | ⟨evs, rfl, _⟩ | ⟨r, rfl, _⟩
  · exact execFeed_inv hi h
  · cases h; exact clear_inv _ _
  · exact ⟨hi.startUnset, hi.lengthUnset, hi.lengthIsPrefix, hi.lengthNotReached⟩
  · exact ⟨hi.startUnset, hi.lengthUnset, hi.lengthIsPrefix, hi.lengthNotReached⟩

/-- Everything a step can do: wait, or run the oldest request's instruction (R38, R193). -/
theorem step_cases {s t : State} (h : step s = .next t) :
    (s.input = [] ∧ t = s) ∨
    (∃ r rest i, s.input = r :: rest ∧ decode r = .ok i ∧ exec i { s with input := rest } = .next t) := by
  unfold step at h
  split at h
  · rename_i hin; cases h; exact .inl ⟨hin, rfl⟩
  · rename_i r rest hin
    split at h
    · rename_i i hd; exact .inr ⟨r, rest, i, hin, hd, h⟩
    · cases h

/-- What an instruction adds to the sink: events of the right kinds, behind all earlier ones (R38). -/
theorem exec_sink {i : Instr} {s t : State} (h : exec i s = .next t) :
    ∃ evs, t.sink = s.sink ++ evs ∧ ∀ e ∈ evs, e.wellKinded = true := by
  rcases exec_cases h with ⟨b, ss, es, rfl⟩ | rfl | ⟨evs, rfl, hk⟩ | ⟨r, rfl, _⟩
  · rcases execFeed_cases h with ⟨_, start, _, rfl⟩ | ⟨_, rfl⟩
    · refine ⟨decodePass ⟨(s.accumulate b ss).buf, start, es⟩, ?_, fun _ => decodePass_wellKinded⟩
      simp only [State.deliver_sink, State.clear_sink, State.accumulate_sink]
    · exact ⟨[], by simp, by simp⟩
  · cases h; exact ⟨[], by simp, by simp⟩
  · exact ⟨evs, rfl, hk⟩
  · exact ⟨[], by simp, by simp⟩

end Sys2Proof.Machine
end

