-- ==== Sys2Proof/Laws/Run.lean ====
section
/-! SUPPORT. Several steps: how runs compose, and what one step on a byte event does in a state that R18 allows. -/

namespace Sys2Proof.Machine

/-- A cleared state meets the invariants of R18. -/
theorem inv_of_cleared {s : State} (h : Cleared s) : AssemblyInv s := by
  obtain ⟨h1, h2, h3⟩ := h
  constructor <;> simp [h1, h2, h3]

/-- The invariants of R18 do not look at the input. -/
theorem inv_withInput {s : State} (h : AssemblyInv s) (rest : List Request) :
    AssemblyInv { s with input := rest } :=
  ⟨h.startUnset, h.lengthUnset, h.lengthIsPrefix, h.lengthNotReached⟩

theorem run_succ (n : Nat) (s t : State) (h : step s = .next t) :
    Host.Core.run Sys2Proof.core (n + 1) s = Host.Core.run Sys2Proof.core n t := by
  have h' : Sys2Proof.core.step s = .next t := h
  simp only [Host.Core.run, h']

/-- A run of `m + n` steps is one of `m` and then one of `n`. -/
theorem run_add (m n : Nat) (s t : State) (h : Host.Core.run Sys2Proof.core m s = .next t) :
    Host.Core.run Sys2Proof.core (m + n) s = Host.Core.run Sys2Proof.core n t := by
  induction m generalizing s with
  | zero => cases h; simp
  | succ m ih =>
    rw [Nat.add_right_comm]
    simp only [Host.Core.run] at h ⊢
    split at h
    · rename_i s' hs; exact ih s' h
    · cases h
    · cases h

/-- A step on a byte event that leaves the frame unfinished (R67, R68). -/
theorem step_feed_unfinished {s : State} (hi : AssemblyInv s) {b : Byte} {ss es : Time} {rest : List Request}
    (hin : s.input = .byteEvent b ss es :: rest)
    (hL : ∀ L, lengthPrefix (s.buf ++ [b]) = some L → s.buf.length + 1 < L.toNat) :
    step s = .next { s with
      buf := s.buf ++ [b], expLen := lengthPrefix (s.buf ++ [b])
      tsStart := if s.buf = [] then some ss else s.tsStart, input := rest, ret := .events [] } := by
  have he := accumulate_expLen (inv_withInput hi rest) b ss
  have hs : step s = execFeed b ss es { s with input := rest } := by simp [step, hin, decode]; rfl
  have hc : (State.accumulate { s with input := rest } b ss).complete = false := by
    simp only [State.complete, he]
    split
    · rename_i l hl; simpa using hL l hl
    · rfl
  rw [hs, execFeed_incomplete hc]
  congr 1
  apply State.eq_of_fields
  case h2 => simp only [State.deliver_expLen, he]
  all_goals simp

/-- A step on the byte event that completes the frame (R69, R70). -/
theorem step_feed_completing {s : State} (hi : AssemblyInv s) {b : Byte} {ss es start : Time} {rest : List Request}
    {L : Word} (hin : s.input = .byteEvent b ss es :: rest) (hs : s.tsStart = some start)
    (hp : lengthPrefix (s.buf ++ [b]) = some L) (hL : L.toNat ≤ s.buf.length + 1) :
    step s = .next { s with
      buf := [], expLen := none, tsStart := none, input := rest
      sink := s.sink ++ decodePass { bytes := s.buf ++ [b], start := start, stop := es }
      ret := .events (decodePass { bytes := s.buf ++ [b], start := start, stop := es }) } := by
  have he := accumulate_expLen (inv_withInput hi rest) b ss
  have hb : s.buf ≠ [] := fun h => by simp [hi.startUnset.mpr h] at hs
  have hst : step s = execFeed b ss es { s with input := rest } := by simp [step, hin, decode]; rfl
  have hc : (State.accumulate { s with input := rest } b ss).complete = true := by
    simp only [State.complete, he, hp]; simpa using hL
  rw [hst, execFeed_complete hc (start := start) (by simp [hb, hs])]
  congr 1
  apply State.eq_of_fields <;> simp

/-- A latched prefix is not changed by later bytes (R68). -/
theorem lengthPrefix_mono {m : Memory} (b : Byte) {L : Word} (h : lengthPrefix m = some L) :
    lengthPrefix (m ++ [b]) = some L := by
  rcases m with _ | ⟨a, _ | ⟨c, m⟩⟩ <;> simp_all [lengthPrefix]

end Sys2Proof.Machine
end

