-- ==== Sys2Proof/Tests/Slice0.lean ====
section
/-! SUPPORT. The model's own tests. Every expected value is from the spec: the frames and vectors of
spec/95_test_vectors.md (V-..., S...), the identifier map of R50, or a hand calculation from the rule named. The last
part holds one witness for each obligation that has hypotheses. -/

namespace Sys2Proof.Tests

open Sys2Proof Sys2Proof.Machine Sys2Proof.Claims

/-! ## Helpers -/

/-- The frame F1 of the spec. -/
def f1 : List Byte :=
  [0x72, 0x00, 0x01, 0x00, 0x96, 0x00] ++ List.replicate 106 0 ++ [0xE5, 0x00]

/-- F1E: one bit of byte 4 flipped. -/
def f1e : List Byte :=
  [0x72, 0x00, 0x01, 0x00, 0x97, 0x00] ++ List.replicate 106 0 ++ [0xE5, 0x00]

/-- F1U: two flips that cancel. -/
def f1u : List Byte :=
  [0x72, 0x00, 0x01, 0x00, 0x97, 0x00, 0x01] ++ List.replicate 105 0 ++ [0xE5, 0x00]

/-- F3: 116 bytes. -/
def f3 : List Byte :=
  [0x74, 0x00, 0x01, 0x00, 0x96, 0x00] ++ List.replicate 106 0 ++ [0xE3, 0x00, 0xDE, 0xAD]

/-- F2: every field non-zero. -/
def f2 : List Byte :=
  [0x72, 0x00, 0x02, 0x00, 0x96, 0x00, 0x94, 0x27, 0xD7, 0x00, 0xFD, 0x00, 0x9C, 0x01, 0x97, 0x27] ++
  [0x0F, 0x0E, 0x0D, 0x07, 0xD2, 0x04, 0x84, 0x03, 0xFF, 0xFF, 0x61, 0x62, 0x2A, 0x00, 0x03, 0x00] ++
  [0x07, 0x00, 0x94, 0x13, 0x31, 0x00, 0x50, 0x31, 0x32, 0x41, 0x0A, 0x00, 0x14, 0x00, 0x1E, 0x00] ++
  [0x28, 0x00, 0x32, 0x00, 0x3C, 0x00, 0x00, 0x00, 0x80, 0x3F, 0x00, 0x00, 0x20, 0xC0, 0x0A, 0xE8] ++
  [0x1C, 0x41, 0x00, 0x00, 0x20, 0x3E, 0x00, 0x00, 0x00, 0x80, 0x00, 0x00, 0xC8, 0x42, 0x00, 0x00] ++
  [0x00, 0x3F, 0x00, 0x00, 0x80, 0x3E, 0x00, 0x00, 0x80, 0xBF, 0x00, 0x00, 0x40, 0x40, 0x00, 0x00] ++
  [0x00, 0x40, 0x00, 0x00, 0x00, 0xC1, 0xE8, 0x03, 0x0C, 0x00, 0x57, 0x32, 0x53, 0x4E, 0x05, 0x80] ++
  [0xAD, 0xDB]

/-- A frame over the range (5000, 6139) of V-P1. -/
def frame (m : List Byte) : Frame :=
  { bytes := m, start := 5000, stop := 6139 }

/-- A state in the middle of a frame. -/
def holding (m : List Byte) (l : Option Word) (t : Option Time) : State :=
  { State.reset with buf := m, expLen := l, tsStart := t }

/-- A state with these requests waiting. -/
def offered (rs : List Request) : State :=
  { State.reset with input := rs }

/-- The next state of an outcome. -/
def nextOf : Host.Outcome State Fault Refusal → Option State
  | .next s => some s
  | .fault _ => none
  | .refused _ => none

/-- The refusal of an outcome. -/
def refusalOf : Host.Outcome State Fault Refusal → Option Refusal
  | .next _ => none
  | .fault _ => none
  | .refused r => some r

/-- The fault of an outcome. -/
def faultOf : Host.Outcome State Fault Refusal → Option Fault
  | .next _ => none
  | .fault e => some e
  | .refused _ => none

/-- What an instruction returns from the reset state. -/
def returned (i : Instr) : Option Returned :=
  (nextOf (exec i State.reset)).map State.ret

/-- The state that an operation which emits nothing leaves, from its three elements. -/
def quiet (m : List Byte) (l : Option Word) (t : Option Time) : State :=
  { State.reset with buf := m, expLen := l, tsStart := t, ret := .events [] }

/-- The next state of an instruction. -/
def after (i : Instr) (s : State) : Option State :=
  nextOf (exec i s)

/-- The text forms of the tests: the list form R147 offers, and stand-ins for the two forms that are open. -/
def testFormats : TextFormats :=
  { floatFmt := fun p => if p = 0x3F800000 then "one" else "f"
    listFmt := offeredListFmt
    summaryFmt := fun len ty valid => dec len.toNat ++ "/" ++ dec ty.toNat ++ (if valid then "/ok" else "/bad") }

/-- One event: its times, identifier and payload, its packed payload, its text. -/
abbrev Shown := FieldEvent × BitVec 96 × Option String

/-- The events an instruction returns, with packing and text. -/
def shown (i : Instr) : List Shown :=
  (eventsFrom i State.reset).map fun e => (e, e.payload.pack, e.text testFormats)

/-- What V-P1 gives for one row. -/
def row (id : FieldId) (p : Payload) (packed : BitVec 96) (text : String) : List Shown :=
  [({ startTime := 5000, endTime := 6139, fieldId := id, payload := p }, packed, some text)]

/-! ## WellFormed: an ill-formed term for each check -/

/-- The guard of R98: 113 bytes are not a row's frame. -/
theorem test_row_short_illFormed : (Instr.depth (frame (List.replicate 113 0))).wf = false := by decide

/-- The bound of R9: 65536 bytes are not a row's frame. -/
theorem test_row_long_illFormed (f : Frame) (h : f.bytes.length = 65536) : (Instr.depth f).wf = false := by
  simp [Instr.wf, Frame.guarded, h]

/-- R97: one byte is not a frame for DECODE. -/
theorem test_decode_short_illFormed : (Instr.decode (frame [0x72])).wf = false := by decide

/-- R97: 65536 bytes are not a frame for DECODE. -/
theorem test_decode_long_illFormed (f : Frame) (h : f.bytes.length = 65536) : (Instr.decode f).wf = false := by
  simp [Instr.wf, Frame.completed, h]

/-- R83: 113 bytes are not an operand of CHK_VALIDATE. -/
theorem test_chkValidate_short_illFormed : (Instr.chkValidate (List.replicate 113 0)).wf = false := by decide

/-- The same frames at the boundary are well formed. -/
theorem test_boundary_wellFormed :
    (Instr.depth (frame (List.replicate 114 0))).wf = true ∧ (Instr.decode (frame [0x72, 0x00])).wf = true ∧
    (Instr.chkValidate (List.replicate 114 0)).wf = true := by decide

/-! ## Decoding: every constructor from the identifier map of R50, or from the input that selects it (D2) -/

/-- Identifiers 0 to 10 (R50). -/
theorem test_decode_ids_0_to_10 :
    decodeTableWord 8 0b000000 = some (.summary Frame.zeros) ∧
    decodeTableWord 8 0b000001 = some (.length Frame.zeros) ∧
    decodeTableWord 8 0b000010 = some (.msgType Frame.zeros) ∧
    decodeTableWord 8 0b000011 = some (.depth Frame.zeros) ∧
    decodeTableWord 8 0b000100 = some (.waterPressure Frame.zeros) ∧
    decodeTableWord 8 0b000101 = some (.waterTemp Frame.zeros) ∧
    decodeTableWord 8 0b000110 = some (.enclTemp Frame.zeros) ∧
    decodeTableWord 8 0b000111 = some (.enclHumidity Frame.zeros) ∧
    decodeTableWord 8 0b001000 = some (.airPressure Frame.zeros) ∧
    decodeTableWord 8 0b001001 = some (.heading Frame.zeros) ∧
    decodeTableWord 8 0b001010 = some (.headingToTarget Frame.zeros) := by decide

/-- Identifiers 11 to 20 (R50). -/
theorem test_decode_ids_11_to_20 :
    decodeTableWord 8 0b001011 = some (.distanceToTarget Frame.zeros) ∧
    decodeTableWord 8 0b001100 = some (.journeyCourse Frame.zeros) ∧
    decodeTableWord 8 0b001101 = some (.journeyDistance Frame.zeros) ∧
    decodeTableWord 8 0b001110 = some (.displayLabel Frame.zeros) ∧
    decodeTableWord 8 0b001111 = some (.makoSecondsOn Frame.zeros) ∧
    decodeTableWord 8 0b010000 = some (.makoUserAction Frame.zeros) ∧
    decodeTableWord 8 0b010001 = some (.badChecksumCount Frame.zeros) ∧
    decodeTableWord 8 0b010010 = some (.usbVoltage Frame.zeros) ∧
    decodeTableWord 8 0b010011 = some (.usbCurrent Frame.zeros) ∧
    decodeTableWord 8 0b010100 = some (.targetCode Frame.zeros) := by decide

/-- Identifiers 21 to 33 (R50). -/
theorem test_decode_ids_21_to_33 :
    decodeTableWord 8 0b010101 = some (.sensorTiming Frame.zeros) ∧
    decodeTableWord 8 0b010110 = some (.accel Frame.zeros) ∧
    decodeTableWord 8 0b010111 = some (.gyro Frame.zeros) ∧
    decodeTableWord 8 0b011000 = some (.linAccel Frame.zeros) ∧
    decodeTableWord 8 0b011001 = some (.rotAccel Frame.zeros) ∧
    decodeTableWord 8 0b011010 = some (.goodChecksumCount Frame.zeros) ∧
    decodeTableWord 8 0b011011 = some (.waymarkerId Frame.zeros) ∧
    decodeTableWord 8 0b011100 = some (.waymarkerLabel Frame.zeros) ∧
    decodeTableWord 8 0b011101 = some (.directionMetric Frame.zeros) ∧
    decodeTableWord 8 0b011110 = some (.flags Frame.zeros) ∧
    decodeTableWord 8 0b011111 = some (.reserved31 Frame.zeros) ∧
    decodeTableWord 8 0b100000 = some (.checksumOk Frame.zeros) ∧
    decodeTableWord 8 0b100001 = some (.checksumError Frame.zeros) := by decide

/-- FEED, RESET, DECODE and the internal functions, by the request that presents each. -/
theorem test_decode_operations :
    decode (.byteEvent 0x72 5 7) = .ok (.feed 0x72 5 7) ∧ decode .resetInput = .ok .reset ∧
    decode (.callDecode (frame [0x72, 0x00])) = .ok (.decode (frame [0x72, 0x00])) ∧
    decode (.callChkCompute [0x34, 0x12]) = .ok (.chkCompute [(0x34, 0x12)]) ∧
    decode (.callChkValidate f1) = .ok (.chkValidate f1) ∧
    decode (.callF32Decode 0x5678 0x1234) = .ok (.f32Decode 0x5678 0x1234) :=
  ⟨rfl, rfl, rfl, rfl, rfl, rfl⟩

/-- Identifiers 34 and 63 do not exist (R60); an odd range is no operand of CHK_COMPUTE (R82). -/
theorem test_decode_refusals :
    decodeTableWord 8 0b100010 = none ∧ decodeTableWord 8 0b111111 = none ∧
    decode (.callChkCompute [1, 2, 3]) = .error (.oddChecksumRange 3) ∧
    decode (.callDecode (frame [1])) = .error (.frameTooShort 1) :=
  ⟨by decide, by decide, rfl, rfl⟩

/-- A table word is what the first step after reset runs. -/
theorem test_withFetchWord :
    (nextOf (step (State.reset.withFetchWord 8 0b000011))).map State.ret =
      some (.events [{ startTime := 0, endTime := 0, fieldId := .depth, payload := .scaled 1 0 }]) := by decide

/-! ## The rows: V-P1 on frame F2, with R53's packing and the text of 44_rendering.md -/

/-- V-P1 row 1. -/
theorem test_length : shown (.length (frame f2)) = row .length (.u16 114) 0x72 "Length: 114 bytes" := by decide

/-- V-P1 row 2. -/
theorem test_msgType : shown (.msgType (frame f2)) = row .msgType (.u16 2) 0x2 "Message Type: 2" := by decide

/-- V-P1 row 3. -/
theorem test_depth : shown (.depth (frame f2)) = row .depth (.scaled 1 150) 0x96 "Depth: 15.0m" := by decide

/-- V-P1 row 4. -/
theorem test_waterPressure : shown (.waterPressure (frame f2)) = row .waterPressure (.scaled 2 10132) 0x2794 "Water Pressure: 101.32" := by decide

/-- V-P1 row 5. -/
theorem test_waterTemp : shown (.waterTemp (frame f2)) = row .waterTemp (.scaled 1 215) 0xD7 "Water Temp: 21.5°C" := by decide

/-- V-P1 row 6. -/
theorem test_enclTemp : shown (.enclTemp (frame f2)) = row .enclTemp (.scaled 1 253) 0xFD "Enclosure Temp: 25.3°C" := by decide

/-- V-P1 row 7. -/
theorem test_enclHumidity : shown (.enclHumidity (frame f2)) = row .enclHumidity (.scaled 1 412) 0x19C "Humidity: 41.2%" := by decide

/-- V-P1 row 8. -/
theorem test_airPressure : shown (.airPressure (frame f2)) = row .airPressure (.scaled 1 10135) 0x2797 "Air Pressure: 1013.5" := by decide

/-- V-P1 row 9. -/
theorem test_heading : shown (.heading (frame f2)) = row .heading (.scaled 1 3599) 0xE0F "Heading: 359.9°" := by decide

/-- V-P1 row 10. -/
theorem test_headingToTarget : shown (.headingToTarget (frame f2)) = row .headingToTarget (.scaled 1 1805) 0x70D "Heading to Target: 180.5°" := by decide

/-- V-P1 row 11. -/
theorem test_distanceToTarget : shown (.distanceToTarget (frame f2)) = row .distanceToTarget (.scaled 1 1234) 0x4D2 "Distance to Target: 123.4m" := by decide

/-- V-P1 row 12. -/
theorem test_journeyCourse : shown (.journeyCourse (frame f2)) = row .journeyCourse (.scaled 1 900) 0x384 "Journey Course: 90.0°" := by decide

/-- V-P1 row 13. -/
theorem test_journeyDistance : shown (.journeyDistance (frame f2)) = row .journeyDistance (.scaled 2 65535) 0xFFFF "Journey Distance: 655.35m" := by decide

/-- V-P1 row 14. -/
theorem test_displayLabel : shown (.displayLabel (frame f2)) = row .displayLabel (.ascii2 0x61 0x62) 0x6261 "Display: \"ab\"" := by decide

/-- V-P1 row 15. -/
theorem test_makoSecondsOn : shown (.makoSecondsOn (frame f2)) = row .makoSecondsOn (.u16 42) 0x2A "Uptime: 42 min" := by decide

/-- V-P1 row 16. -/
theorem test_makoUserAction : shown (.makoUserAction (frame f2)) = row .makoUserAction (.u16 3) 0x3 "User Action: 3" := by decide

/-- V-P1 row 17. -/
theorem test_badChecksumCount : shown (.badChecksumCount (frame f2)) = row .badChecksumCount (.u16 7) 0x7 "Bad Checksums: 7" := by decide

/-- V-P1 row 18. -/
theorem test_usbVoltage : shown (.usbVoltage (frame f2)) = row .usbVoltage (.scaled 3 5012) 0x1394 "USB Voltage: 5.012V" := by decide

/-- V-P1 row 19. -/
theorem test_usbCurrent : shown (.usbCurrent (frame f2)) = row .usbCurrent (.scaled 2 49) 0x31 "USB Current: 0.49A" := by decide

/-- V-P1 row 20. -/
theorem test_targetCode : shown (.targetCode (frame f2)) = row .targetCode (.ascii4 0x50 0x31 0x32 0x41) 0x41323150 "Target: \"P12A\"" := by decide

/-- V-P1 row 21. -/
theorem test_sensorTiming : shown (.sensorTiming (frame f2)) = row .sensorTiming (.u16x6 10 20 30 40 50 60) 0x3C00320028001E0014000A "Sensor Timing: [10, 20, 30, 40, 50, 60]" := by decide

/-- V-P1 row 22. -/
theorem test_accel : shown (.accel (frame f2)) = row .accel (.f32x3 0x3F800000 0xC0200000 0x411CE80A) 0x411CE80AC02000003F800000 "Accel: X=one, Y=f, Z=f" := by decide

/-- V-P1 row 23. -/
theorem test_gyro : shown (.gyro (frame f2)) = row .gyro (.f32x3 0x3E200000 0x80000000 0x42C80000) 0x42C80000800000003E200000 "Gyro: X=f, Y=f, Z=f" := by decide

/-- V-P1 row 24. -/
theorem test_linAccel : shown (.linAccel (frame f2)) = row .linAccel (.f32x3 0x3F000000 0x3E800000 0xBF800000) 0xBF8000003E8000003F000000 "Lin Accel: X=f, Y=f, Z=f" := by decide

/-- V-P1 row 25. -/
theorem test_rotAccel : shown (.rotAccel (frame f2)) = row .rotAccel (.f32x3 0x40400000 0x40000000 0xC1000000) 0xC10000004000000040400000 "Rot Accel: X=f, Y=f, Z=f" := by decide

/-- V-P1 row 26. -/
theorem test_goodChecksumCount : shown (.goodChecksumCount (frame f2)) = row .goodChecksumCount (.u16 1000) 0x3E8 "Good Checksums: 1000" := by decide

/-- V-P1 row 27. -/
theorem test_waymarkerId : shown (.waymarkerId (frame f2)) = row .waymarkerId (.u16 12) 0xC "Waymarker: 12" := by decide

/-- V-P1 row 28. -/
theorem test_waymarkerLabel : shown (.waymarkerLabel (frame f2)) = row .waymarkerLabel (.ascii2 0x57 0x32) 0x3257 "Waymarker Label: \"W2\"" := by decide

/-- V-P1 row 29. -/
theorem test_directionMetric : shown (.directionMetric (frame f2)) = row .directionMetric (.ascii2 0x53 0x4E) 0x4E53 "Direction Metric: \"SN\"" := by decide

/-- V-P1 row 30. -/
theorem test_flags : shown (.flags (frame f2)) = row .flags (.u16 32773) 0x8005 "Flags: 0x8005" := by decide

/-- V-P1 row 31. -/
theorem test_checksumOk : shown (.checksumOk (frame f2)) = row .checksumOk (.chk 0xDBAD 0xDBAD) 0xDBADDBAD "Checksum OK: 0xDBAD" := by decide

/-- V-P1 row 32. -/
theorem test_summary : shown (.summary (frame f2)) = row .summary (.sum 114 2 true) 0x100020072 "114/2/ok" := by decide

/-- V-X2 and V-R28: the mismatch of F1E, and no identifier 32 beside it. -/
theorem test_checksumError :
    shown (.checksumError (frame f1e)) = row .checksumError (.chk 0x00E4 0x00E5) 0x00E400E5
      "Checksum ERROR: got 0x00E5, expected 0x00E4" ∧
    shown (.checksumOk (frame f1e)) = [] := by decide

/-- V-P1 and P1: no identifier 33 on a good frame; a short frame is silent (V-P2). -/
theorem test_checksum_rows_silent :
    shown (.checksumError (frame f2)) = [] ∧ shown (.checksumOk (frame (f2.take 113))) = [] ∧
    shown (.depth (frame (f2.take 113))) = [] := by decide

/-- V-X2: the summary of F1E says that the checksum does not match. -/
theorem test_summary_bad : shown (.summary (frame f1e)) = row .summary (.sum 114 1 false) 0x10072 "114/1/bad" := by
  decide

/-- The reserved identifier is refused (R60). -/
theorem test_reserved31 : refusalOf (exec (.reserved31 (frame f2)) State.reset) = some .reservedIdentifier := by decide

/-! ## DECODE -/

/-- V-P1: the identifiers of the pass on F2, in order (R101). -/
theorem test_decode_order :
    (eventsFrom (.decode (frame f2)) State.reset).map (fun e => (FieldId.code e.fieldId).toNat) =
      [1, 2, 3, 4, 5, 6, 7, 8, 9, 10, 11, 12, 13, 14, 15, 16, 17, 18, 19, 20, 21, 22, 23, 24, 25, 26, 27, 28, 29, 30,
        32, 0] := by decide

/-- V-P2: 113 bytes give nothing; V-A14: on F3 the LENGTH event says 116 and the fold is 0x00E3. -/
theorem test_decode_lengths :
    returned (.decode (frame (f2.take 113))) = some (.events []) ∧
    (eventsFrom (.decode (frame f3)) State.reset).map (·.payload) =
      [.u16 116, .u16 1, .scaled 1 150, .scaled 2 0, .scaled 1 0, .scaled 1 0, .scaled 1 0, .scaled 1 0, .scaled 1 0,
        .scaled 1 0, .scaled 1 0, .scaled 1 0, .scaled 2 0, .ascii2 0 0, .u16 0, .u16 0, .u16 0, .scaled 3 0,
        .scaled 2 0, .ascii4 0 0 0 0, .u16x6 0 0 0 0 0 0, .f32x3 0 0 0, .f32x3 0 0 0, .f32x3 0 0 0, .f32x3 0 0 0,
        .u16 0, .u16 0, .ascii2 0 0, .ascii2 0 0, .u16 0, .chk 0x00E3 0x00E3, .sum 116 1 true] := by decide

/-! ## FEED and RESET -/

/-- V-A1, V-A2, V-A3 and V-A17: one FEED each. -/
theorem test_feed_accumulates :
    after (.feed 0x72 0 9) State.reset = some (quiet [0x72] none (some 0)) ∧
    after (.feed 0x00 10 19) (holding [0x72] none (some 0)) = some (quiet [0x72, 0x00] (some 114) (some 0)) ∧
    after (.feed 0x01 20 29) (holding [0x72, 0x00] (some 114) (some 0)) = some (quiet [0x72, 0x00, 0x01] (some 114) (some 0)) ∧
    after (.feed 0x01 10 19) (holding [0x00] none (some 0)) = some (quiet [0x00, 0x01] (some 256) (some 0)) := by decide

/-- V-A4 to V-A8, and V-A22 on the last byte of F1: the frame completes, the state is cleared, the times are the first
byte's start and the last byte's end. -/
theorem test_feed_completes :
    after (.feed 0x00 10 19) (holding [0x00] none (some 0)) = some (quiet [] none none) ∧
    after (.feed 0x00 10 19) (holding [0x01] none (some 0)) = some (quiet [] none none) ∧
    after (.feed 0x00 10 19) (holding [0x02] none (some 0)) = some (quiet [] none none) ∧
    after (.feed 0x00 10 19) (holding [0x03] none (some 0)) = some (quiet [0x03, 0x00] (some 3) (some 0)) ∧
    after (.feed 0xAA 20 29) (holding [0x03, 0x00] (some 3) (some 0)) = some (quiet [] none none) ∧
    (after (.feed 0x00 90 95) (holding (f1.take 113) (some 114) (some 700))).map (fun t =>
      (t.buf, t.sink.length)) = some ([], 32) ∧
    ((after (.feed 0x00 90 95) (holding (f1.take 113) (some 114) (some 700))).bind fun t => t.sink.getLast?) =
      some { startTime := 700, endTime := 95, fieldId := .summary, payload := .sum 114 1 true } := by decide

/-- V-A18 and V-A20: RESET gives the reset state and emits nothing. -/
theorem test_reset :
    after .reset State.reset = some (quiet [] none none) ∧
    after .reset (holding (f1.take 113) (some 114) (some 0)) = some (quiet [] none none) ∧
    returned .reset = some (.events []) := by decide

/-- Outside the invariants of R18 FEED stops (log 6). -/
theorem test_feed_fault : faultOf (exec (.feed 0x00 0 0) (holding [0x00] none none)) = some .startTimeUnset := by decide

/-- The step takes the oldest request, waits with none, and refuses what is no instruction. -/
theorem test_step :
    nextOf (step State.reset) = some State.reset ∧
    (nextOf (step (offered [.byteEvent 0x72 0 9, .resetInput]))).map State.input = some [.resetInput] ∧
    refusalOf (step (offered [.tableRow 34 (frame f1)])) = some (.undecodable (.unassignedIdentifier 34)) := by decide

/-- R64: the requests of a script. -/
theorem test_script :
    scriptRequests [.reset, .run [0x72, 0x00] 1000, .feed 0x01 7 7] =
      [.resetInput, .byteEvent 0x72 1000 1009, .byteEvent 0x00 1010 1019, .byteEvent 0x01 7 7] := by decide

/-! ## ChecksumValidator -/

/-- V-C1 to V-C5. -/
theorem test_chkCompute :
    returned (.chkCompute []) = some (.word 0x0000) ∧ returned (.chkCompute [(0x34, 0x12)]) = some (.word 0x1234) ∧
    returned (.chkCompute [(0x34, 0x12), (0x34, 0x12)]) = some (.word 0x0000) ∧
    returned (.chkCompute [(0xFF, 0x00), (0x00, 0xFF)]) = some (.word 0xFFFF) ∧
    returned (.chkCompute [(0x72, 0x00), (0x01, 0x00), (0x96, 0x00)]) = some (.word 0x00E5) := by decide

/-- V-C7, V-C8, V-C9, V-C12, V-C15, V-C16 and V-C17. -/
theorem test_chkValidate :
    returned (.chkValidate f1) = some (.checksum ⟨0x00E5, 0x00E5, true⟩) ∧
    returned (.chkValidate f1e) = some (.checksum ⟨0x00E4, 0x00E5, false⟩) ∧
    returned (.chkValidate f1u) = some (.checksum ⟨0x00E5, 0x00E5, true⟩) ∧
    returned (.chkValidate f2) = some (.checksum ⟨0xDBAD, 0xDBAD, true⟩) ∧
    returned (.chkValidate f3) = some (.checksum ⟨0x00E3, 0x00E3, true⟩) ∧
    returned (.chkValidate (List.replicate 114 0)) = some (.checksum ⟨0x0000, 0x0000, true⟩) ∧
    returned (.chkValidate (f1.drop 1 ++ f1.take 1)) = some (.checksum ⟨0x7200, 0x7200, true⟩) := by decide

/-- V-C10, V-C11, and the stop on 113 bytes (log 8). -/
theorem test_chkValidate_more :
    returned (.chkValidate (f1.set 112 0xE4)) = some (.checksum ⟨0x00E5, 0x00E4, false⟩) ∧
    returned (.chkValidate (f1.set 111 0x80)) = some (.checksum ⟨0x80E5, 0x00E5, false⟩) ∧
    refusalOf (exec (.chkValidate (f1.take 113)) State.reset) = some .operandOutsideDomain := by decide

/-! ## FloatCodec, operand assembly, packing -/

/-- V-F1, V-F7, V-F12, V-F16 and V-F17. -/
theorem test_f32Decode :
    returned (.f32Decode 0x0000 0x3F80) = some (.pattern 0x3F800000) ∧
    returned (.f32Decode 0x0000 0x8000) = some (.pattern 0x80000000) ∧
    returned (.f32Decode 0x0001 0xFF80) = some (.pattern 0xFF800001) ∧
    returned (.f32Decode 0xFFFF 0x7F7F) = some (.pattern 0x7F7FFFFF) ∧
    returned (.f32Decode 0x5678 0x1234) = some (.pattern 0x12345678) := by decide

/-- R91 (log 9): 1.0, -2.5, a signalling NaN, minus infinity, minus zero. -/
theorem test_f32Meaning :
    f32Meaning 0x3F800000 = .finite false 1 ∧ f32Meaning 0xC0200000 = .finite true (mkRat 5 2) ∧
    f32Meaning 0xFF800001 = .nan false ∧ f32Meaning 0xFF800000 = .infinity true ∧
    f32Meaning 0x80000000 = .finite true 0 := by decide

/-- V-E1, V-E2, V-E4 and V-E5: words of F2 and a length prefix. -/
theorem test_views :
    wordAt f2 0 = some 0x0072 ∧ wordAt f2 3 = some 0x2794 ∧ wordAt f2 56 = some 0xDBAD ∧
    lengthPrefix [0xFF, 0x72, 0x00] = some 0x72FF := by decide

/-- R34 and R31: a float is a four-byte read, and no read goes past the buffer. -/
theorem test_memRead : memRead f2 62 4 = some 0x411CE80A ∧ memRead f2 112 4 = none := by decide

/-- V-E8: code points above 0x7F are kept. -/
theorem test_ascii2 : (char1 0xE9FF, char2 0xE9FF) = (0xFF, 0xE9) := by decide

/-- V-E15, and R205's beat of the summary: identifier 0, last. -/
theorem test_packing :
    (Payload.sum 114 2 false).pack = 0x20072 ∧
    (FieldEvent.beat { startTime := 1, endTime := 2, fieldId := .summary, payload := .sum 114 2 true }) =
      { id := 0, ss := 1, es := 2, payload := 0x100020072, last := true } := by decide

/-- The buffer as cells (R37). -/
theorem test_cells : Memory.cells [0x72, 0x00] = [(0, 0x72), (1, 0x00)] := by decide

/-! ## Rendering -/

/-- V-R1, V-R4, V-R9, V-R11, V-R17 and V-R21. -/
theorem test_decimals :
    dec 0 = "0" ∧ dec 65535 = "65535" ∧ fix 65535 1 = "6553.5" ∧ fix 5 2 = "0.05" ∧ fix 5 3 = "0.005" ∧
    fix 65535 3 = "65.535" := by decide

/-- V-R22, V-R25, V-R30, V-R31, and the pairs no event has. -/
theorem test_render :
    hex4 0x0000 = "0x0000" ∧ hex4 0xDBAD = "0xDBAD" ∧
    render Config.formats .length (.u16 65535) = some "Length: 65535 bytes" ∧
    render Config.formats .waterTemp (.scaled 1 65535) = some "Water Temp: 6553.5°C" ∧
    render Config.formats .reserved31 (.u16 0) = none ∧ render Config.formats .depth (.scaled 2 0) = none := by decide

/-! ## The reduced state and several instances -/

/-- The reduced state after V-A13: 115 counted, 114 stored (R29). -/
theorem test_reduced :
    (Reduced.feed 0xDE 0 0 (holding (f3.take 114) (some 116) (some 0)).reduce).map (fun r => (r.1, r.2.cnt, r.2.store)) =
      some ([], 115, f3.take 114) := by decide

/-- P8: instance 1 is reset, instance 0 is untouched. -/
theorem test_instances :
    (match stepInstance 1 [holding [0x72] none (some 0), { holding [0x05] none (some 0) with input := [.resetInput] }] with
      | .next b => b.map (fun s => (s.buf, s.tsStart))
      | .fault _ => []
      | .refused _ => []) = [([0x72], some 0), ([], none)] := by decide

/-! ## Witnesses: for each obligation with hypotheses, concrete values that meet all of them together -/

/-- The invariants of R18 as a check. -/
def invCheck (s : State) : Bool :=
  (decide (s.tsStart = none) == decide (s.buf = [])) &&
  match s.expLen with
  | none => decide (s.buf.length < 2)
  | some l => decide (2 ≤ s.buf.length) && decide (lengthPrefix s.buf = some l) && decide (s.buf.length < l.toNat)

theorem inv_of_check {s : State} (h : invCheck s = true) : AssemblyInv s := by
  simp only [invCheck, Bool.and_eq_true, beq_iff_eq, decide_eq_decide] at h
  obtain ⟨h1, h2⟩ := h
  split at h2
  · rename_i he
    exact ⟨h1, by simpa [he] using h2, by simp [he], by simp [he]⟩
  · rename_i l he
    simp only [Bool.and_eq_true, decide_eq_true_eq] at h2
    exact ⟨h1, by simp [he]; omega, by simpa [he] using h2.1.2, by simpa [he] using h2.2⟩

/-- The first 113 bytes of F1 in the buffer. -/
def nearlyF1 : State :=
  holding (f1.take 113) (some 114) (some 700)

/-- The requests that feed a run of bytes, all at times 7 and 7. -/
def eventsAt7 (m : List Byte) : List ByteEvent :=
  m.map fun b => (b, 7, 7)

/-- A list of bytes as pairs. -/
def pairsOf (m : List Byte) : List (Byte × Byte) :=
  (pairUp m).getD []

theorem witness_DecodeOfEncodeIsTheInstruction :
    (Instr.depth (frame f1)).wf = true ∧ (Instr.flags (frame f3)).wf = true ∧
    (Instr.decode (frame [0x05, 0x00])).wf = true ∧ (Instr.chkValidate f2).wf = true ∧
    (Instr.chkCompute [(0x34, 0x12)]).wf = true ∧ (Instr.feed 0xFF 1 2).wf = true := by decide

theorem witness_EncodeOfDecodeIsTheRequest :
    decode (.byteEvent 0xFF 1 2) = .ok (.feed 0xFF 1 2) ∧
    decode (.callChkCompute [0x34, 0x12]) = .ok (.chkCompute [(0x34, 0x12)]) ∧
    decode (.tableRow 33 (frame f1)) = .ok (.checksumError (frame f1)) :=
  ⟨rfl, rfl, by rfl⟩

theorem witness_UnassignedIdentifiersAreRefused :
    34 ≤ (34 : BitVec Config.idBits).toNat ∧ 34 ≤ (63 : BitVec Config.idBits).toNat ∧
    (offered [.tableRow 34 (frame f1)]).input = [.tableRow 34 (frame f1)] :=
  ⟨by decide, by decide, rfl⟩

theorem witness_StepRunsTheDecodedInstruction :
    (offered [.tableRow 3 (frame f1), .resetInput]).input = [.tableRow 3 (frame f1), .resetInput] ∧
    decode (.tableRow 3 (frame f1)) = .ok (.depth (frame f1)) :=
  ⟨rfl, by rfl⟩

theorem witness_WaitingChangesNothing :
    State.reset.input = [] ∧ (offered [.callF32Decode 0 0x3F80]).input = [.callF32Decode 0 0x3F80] ∧
    (Request.callF32Decode 0 0x3F80).fromSource = false ∧ ∃ t, step (offered [.callF32Decode 0 0x3F80]) = .next t :=
  ⟨rfl, rfl, rfl, _, rfl⟩

theorem witness_FirstByteStartsAFrame : Cleared State.reset :=
  ⟨rfl, rfl, rfl⟩

/-- Both clauses at the boundary: prefixes 3, 2 and 0. -/
theorem witness_SecondByteLatchesTheLength :
    (AssemblyInv (holding [0x03] none (some 0)) ∧ WordIs [0x03, 0x00] 0 3 ∧ 3 ≤ (3 : Word).toNat) ∧
    (AssemblyInv (holding [0x02] none (some 0)) ∧ WordIs [0x02, 0x00] 0 2 ∧ (2 : Word).toNat ≤ 2) ∧
    (AssemblyInv (holding [0x00] none (some 0)) ∧ WordIs [0x00, 0x00] 0 0 ∧ (0 : Word).toNat ≤ 2) := by
  refine ⟨⟨inv_of_check ?_, ?_, ?_⟩, ⟨inv_of_check ?_, ?_, ?_⟩, ⟨inv_of_check ?_, ?_, ?_⟩⟩ <;> decide

theorem witness_ByteBelowTheLengthIsStored :
    AssemblyInv (holding [0x04, 0x00] (some 4) (some 0)) ∧ (holding [0x04, 0x00] (some 4) (some 0)).buf.length + 1 < 4 :=
  ⟨inv_of_check (by decide), by decide⟩

/-- At the shortest latched length and at 114. -/
theorem witness_ByteAtTheLengthCompletesTheFrame :
    (AssemblyInv (holding [0x03, 0x00] (some 3) (some 0)) ∧ (2 : Nat) + 1 = (3 : Word).toNat) ∧
    (AssemblyInv nearlyF1 ∧ nearlyF1.expLen = some 114 ∧ nearlyF1.tsStart = some 700 ∧
      nearlyF1.buf.length + 1 = (114 : Word).toNat) :=
  ⟨⟨inv_of_check (by decide), by decide⟩, inv_of_check (by decide), rfl, rfl, by decide⟩

/-- A state for each row of the transition table. -/
theorem witness_PhaseFollowsTheTransitionTable :
    (AssemblyInv State.reset ∧ State.reset.phase = .empty) ∧
    (AssemblyInv (holding [0x02] none (some 0)) ∧ WordIs [0x02, 0x00] 0 2 ∧ WordIs [0x02, 0x01] 0 258) ∧
    (AssemblyInv (holding [0x04, 0x00] (some 4) (some 0)) ∧
      (holding [0x04, 0x00] (some 4) (some 0)).phase = .accum ∧ 2 + 1 < (4 : Word).toNat) ∧
    (AssemblyInv (holding ([0x71, 0x00] ++ List.replicate 110 0) (some 113) (some 0)) ∧ 112 + 1 = (113 : Word).toNat) ∧
    (AssemblyInv nearlyF1 ∧ nearlyF1.phase = .accum ∧ 113 + 1 = (114 : Word).toNat) :=
  ⟨⟨inv_of_check (by decide), rfl⟩, ⟨inv_of_check (by decide), by decide, by decide⟩,
    ⟨inv_of_check (by decide), rfl, by decide⟩, ⟨inv_of_check (by decide), by decide⟩,
    inv_of_check (by decide), rfl, by decide⟩

theorem witness_NoOperationCanFail :
    AssemblyInv nearlyF1 ∧ (AssemblyInv (offered [.byteEvent 0x72 0 9]) ∧
      (offered [.byteEvent 0x72 0 9]).input = [.byteEvent 0x72 0 9] ∧ (Request.byteEvent 0x72 0 9).fromSource = true) ∧
    (frame f1).bytes.length = 114 ∧ (frame (f1.take 113)).bytes.length < 114 :=
  ⟨inv_of_check (by decide), ⟨inv_of_check (by decide), rfl, rfl⟩, by decide, by decide⟩

/-- Both clauses: a byte that completes the frame, and one that does not. -/
theorem witness_FeedChangesOnlyItsOwnElements :
    ((∃ t, exec (.feed 0x00 90 95) nearlyF1 = .next t) ∧ (nearlyF1.accumulate 0x00 90).complete = true) ∧
    ((∃ t, exec (.feed 0x72 0 9) State.reset = .next t) ∧ (State.reset.accumulate 0x72 0).complete = false) ∧
    nearlyF1.buf ≠ [] ∧ nearlyF1.expLen ≠ none :=
  ⟨⟨⟨_, rfl⟩, by decide⟩, ⟨⟨_, rfl⟩, rfl⟩, by decide, by decide⟩

theorem witness_OtherInstructionsLeaveTheAssemblerAlone :
    (∀ b ss es, Instr.depth (frame f2) ≠ .feed b ss es) ∧ Instr.depth (frame f2) ≠ .reset ∧
    ∃ t, exec (.depth (frame f2)) nearlyF1 = .next t :=
  ⟨by simp, by simp, _, rfl⟩

/-- A completed short frame and a completed whole one. -/
theorem witness_ResetStateIsEmpty :
    (((holding [0x00] none (some 0)).accumulate 0x00 10).complete = true ∧
      ∃ t, exec (.feed 0x00 10 19) (holding [0x00] none (some 0)) = .next t) ∧
    ((nearlyF1.accumulate 0x00 90).complete = true ∧ ∃ t, exec (.feed 0x00 90 95) nearlyF1 = .next t) :=
  ⟨⟨by decide, _, rfl⟩, by decide, _, rfl⟩

theorem witness_EveryStepKeepsTheAssemblyInvariants :
    AssemblyInv (offered [.byteEvent 0x72 0 9]) ∧ ∃ t, step (offered [.byteEvent 0x72 0 9]) = .next t :=
  ⟨inv_of_check (by decide), _, rfl⟩

theorem witness_EveryStepKeepsEventsWellKinded :
    SinkWellKinded (offered [.tableRow 3 (frame f2)]) ∧ ∃ t, step (offered [.tableRow 3 (frame f2)]) = .next t :=
  ⟨show ∀ e ∈ (offered [.tableRow 3 (frame f2)]).sink, e.wellKinded = true from fun e h => absurd h (by simp [offered]), _, rfl⟩

/-- The longest buffer between operations that a small test can hold is far below 65534; the hypotheses do not ask for
more. -/
theorem witness_BufferNeverExceedsItsBound :
    AssemblyInv nearlyF1 ∧ ∃ t, step nearlyF1 = .next t :=
  ⟨inv_of_check (by decide), _, rfl⟩

/-- Prefixes 0, 2, 3, 113 and 114. -/
theorem witness_AWholeFrameIsDecodedInOnePass :
    (Cleared (offered (feeds (eventsAt7 [0x00, 0x00]))) ∧ WordIs (bytesOf (eventsAt7 [0x00, 0x00])) 0 0 ∧
      (eventsAt7 [0x00, 0x00]).length = max 2 (0 : Word).toNat) ∧
    (WordIs (bytesOf (eventsAt7 [0x02, 0x00])) 0 2 ∧
      (eventsAt7 [0x02, 0x00]).length = max 2 (2 : Word).toNat) ∧
    (WordIs (bytesOf (eventsAt7 [0x03, 0x00, 0xAA])) 0 3 ∧
      (eventsAt7 [0x03, 0x00, 0xAA]).length = max 2 (3 : Word).toNat) ∧
    (WordIs (bytesOf (eventsAt7 (0x71 :: 0x00 :: List.replicate 111 0xAA))) 0 113 ∧
      (eventsAt7 (0x71 :: 0x00 :: List.replicate 111 0xAA)).length = max 2 (113 : Word).toNat) ∧
    (Cleared (offered (feeds (eventsAt7 f1) ++ [.resetInput])) ∧
      (offered (feeds (eventsAt7 f1) ++ [.resetInput])).input = feeds (eventsAt7 f1) ++ [.resetInput] ∧
      WordIs (bytesOf (eventsAt7 f1)) 0 114 ∧ (eventsAt7 f1).length = max 2 (114 : Word).toNat ∧
      (eventsAt7 f1).head? = some (0x72, 7, 7) ∧ (eventsAt7 f1).getLast? = some (0x00, 7, 7)) :=
  ⟨⟨⟨rfl, rfl, rfl⟩, by decide, by decide⟩, ⟨by decide, by decide⟩, ⟨by decide, by decide⟩, ⟨by decide, by decide⟩,
    ⟨rfl, rfl, rfl⟩, rfl, by decide, by decide, by decide, by decide⟩

/-- One byte, which makes no prefix yet, and two bytes of a frame of three. -/
theorem witness_AnUnfinishedFrameEmitsNothing :
    (Cleared (offered (feeds (eventsAt7 [0x72]))) ∧ (eventsAt7 [0x72]).head? = some (0x72, 7, 7) ∧
      ∀ L, WordIs (bytesOf (eventsAt7 [0x72])) 0 L → (eventsAt7 [0x72]).length < max 2 L.toNat) ∧
    (Cleared (offered (feeds (eventsAt7 [0x03, 0x00]))) ∧ (eventsAt7 [0x03, 0x00]).head? = some (0x03, 7, 7) ∧
      ∀ L, WordIs (bytesOf (eventsAt7 [0x03, 0x00])) 0 L → (eventsAt7 [0x03, 0x00]).length < max 2 L.toNat) := by
  refine ⟨⟨⟨rfl, rfl, rfl⟩, rfl, fun L h => ?_⟩, ⟨rfl, rfl, rfl⟩, rfl, fun L h => ?_⟩
  · simp only [eventsAt7, List.map_cons, List.map_nil, List.length_singleton]; omega
  · have hw : wordAt [0x03, 0x00] 0 = some L := wordAt_eq_some_iff.mpr h
    have h3 : wordAt [0x03, 0x00] 0 = some 3 := by decide
    rw [h3, Option.some.injEq] at hw
    subst hw; decide

theorem witness_AFrameCompletesWithin65535Bytes :
    Cleared (offered (feeds (List.replicate 65535 ((0xFF : Byte), (7 : Time), (7 : Time))))) ∧
    (List.replicate 65535 ((0xFF : Byte), (7 : Time), (7 : Time))).length = 65535 :=
  ⟨⟨rfl, rfl, rfl⟩, List.length_replicate⟩

theorem witness_ResetMakesRunsRepeatable :
    (∀ r ∈ [Request.byteEvent 0x72 0 9, .resetInput], r.fromSource = true) ∧
    (offered [.resetInput, .byteEvent 0x72 0 9, .resetInput]).input =
      .resetInput :: [.byteEvent 0x72 0 9, .resetInput] ++ [] ∧
    ({ nearlyF1 with input := [.resetInput, .byteEvent 0x72 0 9, .resetInput, .resetInput] } : State).input =
      .resetInput :: [.byteEvent 0x72 0 9, .resetInput] ++ [.resetInput] := by decide

theorem witness_TimesAreOnlyCopied : ∃ t, step (offered [.byteEvent 0x72 0 9]) = .next t :=
  ⟨_, rfl⟩

/-- Each row's word of F2. -/
theorem witness_RawIntegerRowsEmitTheirWord :
    114 ≤ (frame f2).bytes.length ∧ WordIs f2 0 0x0072 ∧ WordIs f2 1 0x0002 ∧ WordIs f2 14 0x002A ∧
    WordIs f2 15 0x0003 ∧ WordIs f2 16 0x0007 ∧ WordIs f2 51 0x03E8 ∧ WordIs f2 52 0x000C ∧ WordIs f2 55 0x8005 := by
  decide

theorem witness_TenthsRowsEmitTheirRawWord :
    114 ≤ (frame f2).bytes.length ∧ WordIs f2 2 0x0096 ∧ WordIs f2 4 0x00D7 ∧ WordIs f2 5 0x00FD ∧ WordIs f2 6 0x019C ∧
    WordIs f2 7 0x2797 ∧ WordIs f2 8 0x0E0F ∧ WordIs f2 9 0x070D ∧ WordIs f2 10 0x04D2 ∧ WordIs f2 11 0x0384 := by
  decide

theorem witness_HundredthsAndThousandthsRowsEmitTheirRawWord :
    114 ≤ (frame f2).bytes.length ∧ WordIs f2 3 0x2794 ∧ WordIs f2 12 0xFFFF ∧ WordIs f2 18 0x0031 ∧
    WordIs f2 17 0x1394 := by decide

theorem witness_LabelRowsEmitTheirBytesInOrder :
    114 ≤ (frame f2).bytes.length ∧ (f2[26]?, f2[27]?) = (some 0x61, some 0x62) ∧
    (f2[106]?, f2[107]?) = (some 0x57, some 0x32) ∧ (f2[108]?, f2[109]?) = (some 0x53, some 0x4E) ∧
    (f2[38]?, f2[39]?, f2[40]?, f2[41]?) = (some 0x50, some 0x31, some 0x32, some 0x41) := by decide

theorem witness_SensorTimingEmitsSixWordsInOrder :
    114 ≤ (frame f2).bytes.length ∧ WordIs f2 21 10 ∧ WordIs f2 22 20 ∧ WordIs f2 23 30 ∧ WordIs f2 24 40 ∧
    WordIs f2 25 50 ∧ WordIs f2 26 60 := by decide

/-- Words `i` and `i + 1` of F2 hold the pattern. -/
abbrev pairIs (i : Nat) (p : Pattern) : Prop :=
  WordIs f2 i (p.extractLsb' 0 16) ∧ WordIs f2 (i + 1) (p.extractLsb' 16 16)

/-- The X, Y, Z words of all four triples of F2. -/
theorem witness_FloatTripleRowsEmitTheirPatterns :
    114 ≤ (frame f2).bytes.length ∧
    (pairIs 27 0x3F800000 ∧ pairIs 29 0xC0200000 ∧ pairIs 31 0x411CE80A) ∧
    (pairIs 33 0x3E200000 ∧ pairIs 35 0x80000000 ∧ pairIs 37 0x42C80000) ∧
    (pairIs 39 0x3F000000 ∧ pairIs 41 0x3E800000 ∧ pairIs 43 0xBF800000) ∧
    (pairIs 45 0x40400000 ∧ pairIs 47 0x40000000 ∧ pairIs 49 0xC1000000) :=
  ⟨by decide, by decide, by decide, by decide, by decide⟩

/-- Both outcomes: F2 matches, F1E does not. -/
theorem witness_ChecksumRowsEmitExactlyOneOutcome :
    (114 ≤ (frame f2).bytes.length ∧ flattenPairs (pairsOf (f2.take 112)) = f2.take 112 ∧ WordIs f2 56 0xDBAD ∧
      chkCompute (pairsOf (f2.take 112)) = 0xDBAD) ∧
    (114 ≤ (frame f1e).bytes.length ∧ flattenPairs (pairsOf (f1e.take 112)) = f1e.take 112 ∧ WordIs f1e 56 0x00E5 ∧
      chkCompute (pairsOf (f1e.take 112)) ≠ 0x00E5) := by decide

theorem witness_SummaryEmitsLengthTypeAndValidity :
    114 ≤ (frame f2).bytes.length ∧ flattenPairs (pairsOf (f2.take 112)) = f2.take 112 ∧ WordIs f2 0 0x0072 ∧
    WordIs f2 1 0x0002 ∧ WordIs f2 56 0xDBAD := by decide

theorem witness_ShortFramesAreSilent :
    (frame (f2.take 113)).bytes.length < 114 ∧ (frame [0x00, 0x00]).bytes.length < 114 ∧
    114 ≤ (frame f2).bytes.length ∧ 114 ≤ (frame f3).bytes.length := by decide

theorem witness_RowsAreSilentOnShortFrames :
    (frame (f2.take 113)).bytes.length < 114 ∧ FieldId.length ∈ passRows ∧ FieldId.summary ∈ passRows := by decide

theorem witness_DecodeEmits32EventsInFixedOrder :
    114 ≤ (frame f2).bytes.length ∧ 114 ≤ (frame f3).bytes.length := by decide

theorem witness_EveryEventSpansTheWholeFrame :
    { startTime := 5000, endTime := 6139, fieldId := .depth, payload := .scaled 1 150 } ∈
      eventsFrom (.decode (frame f2)) State.reset := by decide

theorem witness_DecodeReadsOnlyTheFirst114Bytes :
    114 ≤ (frame f3).bytes.length ∧ 114 ≤ (frame (f3.take 114)).bytes.length ∧
    (frame f3).bytes.take 114 = (frame (f3.take 114)).bytes.take 114 ∧ f3 ≠ f3.take 114 := by decide

theorem witness_ChecksumGatesNothing :
    114 ≤ (frame f1).bytes.length ∧ 114 ≤ (frame (f1.set 112 0xE4)).bytes.length ∧
    f1.take 112 = (f1.set 112 0xE4).take 112 ∧ f1 ≠ f1.set 112 0xE4 := by decide

theorem witness_LengthEventReportsTheLatchedLength :
    AssemblyInv nearlyF1 ∧ ∃ t, exec (.feed 0x00 90 95) nearlyF1 = .next t ∧
      { startTime := 700, endTime := 95, fieldId := .length, payload := .u16 114 } ∈ eventsOf t.ret :=
  ⟨inv_of_check (by decide), _, rfl, by decide⟩

theorem witness_ChecksumIsTheXorOfTheWords :
    WordIs [0x34, 0x12] 0 0x1234 ∧ [((0x34 : Byte), (0x12 : Byte)), (0x72, 0x00)].Perm [(0x72, 0x00), (0x34, 0x12)] :=
  ⟨by decide, List.Perm.swap _ _ _⟩

theorem witness_ValidateComparesTheFoldWithWord56 :
    114 ≤ f3.length ∧ flattenPairs (pairsOf (f3.take 112)) = f3.take 112 ∧ WordIs f3 56 0x00E3 := by decide

theorem witness_ValidateStopsOutsideItsDomain : (f1.take 113).length < 114 := by decide

theorem witness_ZeroResidueMeansValid :
    114 ≤ f2.length ∧ flattenPairs (pairsOf (f2.take 114)) = f2.take 114 := by decide

/-- The valid frame F2, with the first and last bit that can be flipped. -/
theorem witness_SingleBitFlipsAreDetected :
    (pairsOf (f1.take 112)).length = 56 ∧ ChecksumMatches f2 ∧ 0 < 114 ∧ 113 < 114 ∧ 0 < 8 ∧ 7 < 8 :=
  ⟨by decide, ⟨⟨0xDBAD, 0xDBAD, true⟩, by decide, rfl⟩, by decide, by decide, by decide, by decide⟩

/-- Rotations by 0, 1 and 114 places of F1. -/
theorem witness_RotatedFramesStayValid : f1.length = 114 ∧ 0 ≤ 114 ∧ 1 ≤ 114 ∧ 114 ≤ 114 ∧ ChecksumMatches f1 :=
  ⟨by decide, by decide, by decide, by decide, ⟨0x00E5, 0x00E5, true⟩, by decide, rfl⟩

theorem witness_PackedEventsReadBack :
    (FieldEvent.mk 1 2 .summary (.sum 114 2 true)).wellKinded = true ∧
    (FieldEvent.mk 1 2 .checksumError (.chk 0xDBAC 0xDBAD)).wellKinded = true ∧
    (FieldEvent.mk 1 2 .usbVoltage (.scaled 3 5012)).wellKinded = true := by decide

theorem witness_PackedPayloadIsTheSourceBytes :
    fieldWords .length = some (0, 1) ∧ fieldWords .targetCode = some (19, 2) ∧ fieldWords .rotAccel = some (45, 6) ∧
    114 ≤ (frame f2).bytes.length := by decide

theorem witness_EveryDecodedEventHasAText :
    { startTime := 5000, endTime := 6139, fieldId := .checksumOk, payload := .chk 0xDBAD 0xDBAD } ∈
      eventsFrom (.decode (frame f2)) State.reset := by decide

theorem witness_FixedPointTextIsTheExactQuotient : 1 ≤ 1 ∧ 1 ≤ 3 ∧ 3 ≤ 3 := by decide

/-- Both kinds of FEED: one that completes a frame and one that does not. -/
theorem witness_ReducedStateRefinesTheFullState :
    (AssemblyInv nearlyF1 ∧ ∃ t, exec (.feed 0x00 90 95) nearlyF1 = .next t) ∧
    (AssemblyInv State.reset ∧ ∃ t, exec (.feed 0x72 0 9) State.reset = .next t) :=
  ⟨⟨inv_of_check (by decide), _, rfl⟩, inv_of_check (by decide), _, rfl⟩

/-- Two instances with a byte waiting each; either may step first. -/
theorem witness_InstancesAreIndependent :
    let bank : Bank := [offered [.byteEvent 0x72 0 9], offered [.resetInput]]
    (0 : Nat) ≠ 1 ∧ bank[1]? = some (offered [.resetInput]) ∧
    (∃ b₁ b₂, stepInstance 0 bank = .next b₁ ∧ stepInstance 1 b₁ = .next b₂) ∧
    (∃ c₁ c₂, stepInstance 1 bank = .next c₁ ∧ stepInstance 0 c₁ = .next c₂) :=
  ⟨by decide, rfl, ⟨_, _, rfl, rfl⟩, _, _, rfl, rfl⟩

/-- Two states that agree go on, fault and are refused: the second holds another queue and another result. -/
theorem witness_EveryStepKeepsStatesInAgreement :
    let other (s : State) : State := { s with input := s.input ++ [.resetInput], ret := .word 7 }
    let goOn := offered [.byteEvent 0x72 0 9]
    let stuck : State := { holding [0x00] none none with input := [.byteEvent 0x00 0 9] }
    let noRow := offered [.tableRow 34 Frame.zeros]
    (SameAssembly goOn (other goOn) ∧ goOn.input.head? = (other goOn).input.head? ∧ goOn.input ≠ [] ∧
      ∃ t, step goOn = .next t) ∧
    (SameAssembly stuck (other stuck) ∧ stuck.input.head? = (other stuck).input.head? ∧
      step stuck = .fault .startTimeUnset) ∧
    (SameAssembly noRow (other noRow) ∧ noRow.input.head? = (other noRow).input.head? ∧
      step noRow = .refused (.undecodable (.unassignedIdentifier 34))) :=
  ⟨⟨⟨rfl, rfl, rfl⟩, rfl, by decide, _, rfl⟩, ⟨⟨rfl, rfl, rfl⟩, rfl, rfl⟩, ⟨rfl, rfl, rfl⟩, rfl, rfl⟩

end Sys2Proof.Tests
end

section
/-! The buffer's bound: the invariants of R18 are kept by a whole step, and they keep the buffer short of the longest
length a 16-bit prefix can name. -/

namespace Sys2Proof.Machine

/-- A step keeps the invariants of R18: waiting changes nothing, and every instruction keeps them. -/
theorem step_inv {s t : State} (hi : AssemblyInv s) (h : step s = .next t) : AssemblyInv t := by
  rcases step_cases h with ⟨_, rfl⟩ | ⟨r, rest, i, _, _, he⟩
  · exact hi
  · exact exec_inv (inv_withInput hi rest) he

theorem Memory.wf_iff (m : Memory) : m.wf = true ↔ m.length ≤ 65535 := by
  simp [Memory.wf]

/-- Without a latched length fewer than two bytes are in (I-b); with one, the buffer is shorter than a 16-bit word's
value (I-d). -/
theorem buf_length_le_of_inv {s : State} (hi : AssemblyInv s) : s.buf.length ≤ 65534 := by
  cases hl : s.expLen with
  | none =>
    have := hi.lengthUnset.mp hl
    omega
  | some l =>
    have := hi.lengthNotReached l hl
    have := l.isLt
    omega

theorem buf_wf_of_inv {s : State} (hi : AssemblyInv s) : s.buf.wf = true := by
  have := buf_length_le_of_inv hi
  rw [Memory.wf_iff]
  omega

/-- Inside a FEED the buffer holds one byte more than between operations. -/
theorem accumulate_buf_length_le_of_inv {s : State} (hi : AssemblyInv s) (b : Byte) (ss : Time) :
    (s.accumulate b ss).buf.length ≤ 65535 := by
  have := buf_length_le_of_inv hi
  rw [State.accumulate_buf, List.length_append, List.length_singleton]
  omega

/-- Settles O21: a FEED adds one byte, and the invariants that bound the buffer are kept by every step. -/
theorem bufferNeverExceedsItsBound : Obligations.BufferNeverExceedsItsBound := by
  intro s hi
  refine ⟨buf_length_le_of_inv hi, buf_wf_of_inv hi, fun b ss => ?_, fun t ht => ?_⟩
  · have hle := accumulate_buf_length_le_of_inv hi b ss
    exact ⟨hle, (Memory.wf_iff _).mpr hle⟩
  · have hi' := step_inv hi ht
    exact ⟨buf_length_le_of_inv hi', buf_wf_of_inv hi'⟩

end Sys2Proof.Machine
end

section
/-! Times are only copied (R10, R47): replacing every time through `g` commutes with the decode pass, with every
instruction, and so with a step, whatever its outcome. -/

namespace Sys2Proof.Machine

open Sys2Proof.Claims

/-- An outcome with every time of its next state replaced through `g`; a stop names no time. -/
def retimeOutcome (g : Time → Time) : Host.Outcome State Fault Refusal → Host.Outcome State Fault Refusal
  | .next s => .next (retimeState g s)
  | .fault r => .fault r
  | .refused r => .refused r

variable (g : Time → Time)

@[simp] theorem retimeOutcome_next (s : State) : retimeOutcome g (.next s) = .next (retimeState g s) := rfl
@[simp] theorem retimeOutcome_fault (r : Fault) : retimeOutcome g (.fault r) = .fault r := rfl
@[simp] theorem retimeOutcome_refused (r : Refusal) : retimeOutcome g (.refused r) = .refused r := rfl

@[simp] theorem retimeFrame_bytes (f : Frame) : (retimeFrame g f).bytes = f.bytes := rfl
@[simp] theorem retimeFrame_start (f : Frame) : (retimeFrame g f).start = g f.start := rfl
@[simp] theorem retimeFrame_stop (f : Frame) : (retimeFrame g f).stop = g f.stop := rfl

@[simp] theorem retimeState_buf (s : State) : (retimeState g s).buf = s.buf := rfl
@[simp] theorem retimeState_expLen (s : State) : (retimeState g s).expLen = s.expLen := rfl
@[simp] theorem retimeState_tsStart (s : State) : (retimeState g s).tsStart = s.tsStart.map g := rfl
@[simp] theorem retimeState_input (s : State) : (retimeState g s).input = s.input.map (retimeRequest g) := rfl
@[simp] theorem retimeState_sink (s : State) : (retimeState g s).sink = s.sink.map (retimeEvent g) := rfl
@[simp] theorem retimeState_ret (s : State) : (retimeState g s).ret = retimeReturned g s.ret := rfl

/-! ### The state's operations -/

theorem deliver_retime (s : State) (evs : List FieldEvent) :
    (retimeState g s).deliver (evs.map (retimeEvent g)) = retimeState g (s.deliver evs) := by
  apply State.eq_of_fields <;> simp [retimeReturned]

theorem clear_retime (s : State) : (retimeState g s).clear = retimeState g s.clear := rfl

theorem accumulate_retime (s : State) (b : Byte) (ss : Time) :
    (retimeState g s).accumulate b (g ss) = retimeState g (s.accumulate b ss) := by
  apply State.eq_of_fields
  case h2 => cases hl : s.expLen <;> simp [hl]
  case h3 => by_cases hb : s.buf = [] <;> simp [hb]
  all_goals simp

/-- The completion test reads no time. -/
theorem complete_retime (s : State) : (retimeState g s).complete = s.complete := rfl

/-! ### The events -/

/-- A row's event copies the frame's two times. -/
theorem fieldEvent_retime (f : Frame) (id : FieldId) (p : Option Payload) :
    fieldEvent (retimeFrame g f) id p = (fieldEvent f id p).map (retimeEvent g) := by
  by_cases h : f.bytes.length < Config.frameBytes
  · simp [fieldEvent, h]
  · cases p <;> simp [fieldEvent, h, retimeEvent]

theorem evChecksumOk_retime (f : Frame) :
    evChecksumOk (retimeFrame g f) = (evChecksumOk f).map (retimeEvent g) := by
  unfold evChecksumOk
  rw [retimeFrame_bytes]
  rcases chkValidate f.bytes with _ | ⟨computed, received, _ | _⟩
  · rfl
  · rfl
  · exact fieldEvent_retime g f .checksumOk (some (.chk computed received))

theorem evChecksumError_retime (f : Frame) :
    evChecksumError (retimeFrame g f) = (evChecksumError f).map (retimeEvent g) := by
  unfold evChecksumError
  rw [retimeFrame_bytes]
  rcases chkValidate f.bytes with _ | ⟨computed, received, _ | _⟩
  · rfl
  · exact fieldEvent_retime g f .checksumError (some (.chk computed received))
  · rfl

theorem fieldEvents_retime (fs fe : Time) (W : Nat → Word) :
    fieldEvents (g fs) (g fe) W = (fieldEvents fs fe W).map (retimeEvent g) := rfl

theorem closingEvents_retime (fs fe : Time) (W : Nat → Word) (r : ChecksumResult) :
    closingEvents (g fs) (g fe) W r = (closingEvents fs fe W r).map (retimeEvent g) := rfl

/-- The decode pass copies the frame's two times: a short frame has no event, a whole one has the same words and the
same ChecksumResult under any times. -/
theorem decodePass_retime (f : Frame) :
    decodePass (retimeFrame g f) = (decodePass f).map (retimeEvent g) := by
  rcases decodePass_cases f with ⟨hshort, hd⟩ | ⟨hlong, W, r, hW, hr, hd⟩
  · rw [hd, decodePass_short (f := retimeFrame g f) hshort, List.map_nil]
  · rw [hd, decodePass_eq (f := retimeFrame g f) hlong hW hr, List.map_append, ← fieldEvents_retime,
      ← closingEvents_retime, retimeFrame_start, retimeFrame_stop]

/-! ### The instructions -/

/-- An instruction that delivers events commutes with `g` as soon as its events do. -/
theorem next_deliver_retime (s : State) {evs evs' : List FieldEvent} (h : evs' = evs.map (retimeEvent g)) :
    Host.Outcome.next ((retimeState g s).deliver evs') = retimeOutcome g (.next (s.deliver evs)) := by
  rw [h, deliver_retime, retimeOutcome_next]

theorem exec_ofRow_retime (id : FieldId) (f : Frame) (s : State) :
    exec (Instr.ofRow id (retimeFrame g f)) (retimeState g s) = retimeOutcome g (exec (Instr.ofRow id f) s) := by
  cases id
  case reserved31 => rfl
  case checksumOk => exact next_deliver_retime g s (evChecksumOk_retime g f)
  case checksumError => exact next_deliver_retime g s (evChecksumError_retime g f)
  all_goals exact next_deliver_retime g s (fieldEvent_retime g f _ _)

/-- FEED copies `ss` into the start time and hands the start time and `es` to the pass; its test and its stop depend on
no time's value. -/
theorem execFeed_retime (b : Byte) (ss es : Time) (s : State) :
    execFeed b (g ss) (g es) (retimeState g s) = retimeOutcome g (execFeed b ss es s) := by
  simp only [execFeed, accumulate_retime, complete_retime, retimeState_tsStart]
  generalize s.accumulate b ss = u
  cases u.complete with
  | false => exact next_deliver_retime g u rfl
  | true =>
    cases u.tsStart with
    | none => rfl
    | some start => exact next_deliver_retime g u.clear (decodePass_retime g ⟨u.buf, start, es⟩)

theorem execReset_retime (s : State) : execReset (retimeState g s) = retimeOutcome g (execReset s) :=
  next_deliver_retime g s.clear rfl

theorem execChkValidate_retime (m : List Byte) (s : State) :
    execChkValidate m (retimeState g s) = retimeOutcome g (execChkValidate m s) := by
  unfold execChkValidate
  cases chkValidate m <;> rfl

/-! ### The step -/

/-- What a step does with the decoder's answer: run the instruction, or refuse what is none. -/
def execDecoded (d : Except DecodeError Instr) (s : State) : Host.Outcome State Fault Refusal :=
  match d with
  | .ok i => exec i s
  | .error e => .refused (.undecodable e)

theorem step_of_input_nil {s : State} (h : s.input = []) : step s = .next s := by
  simp [step, h]

theorem step_of_input_cons {s : State} {r : Request} {rest : List Request} (h : s.input = r :: rest) :
    step s = execDecoded (decode r) { s with input := rest } := by
  unfold step
  rw [h]
  rfl

/-- The frame check reads the frame's length alone, so it passes or refuses alike under any times. -/
theorem execDecoded_checkFrame_retime (n : Nat) (f : Frame) {i j : Instr} {s : State}
    (h : exec j (retimeState g s) = retimeOutcome g (exec i s)) :
    execDecoded (checkFrame n (retimeFrame g f) j) (retimeState g s) =
      retimeOutcome g (execDecoded (checkFrame n f i) s) := by
  unfold checkFrame
  rw [retimeFrame_bytes]
  by_cases hshort : f.bytes.length < n
  · rw [if_pos hshort, if_pos hshort]
    rfl
  by_cases hlong : Config.maxBuf < f.bytes.length
  · rw [if_neg hshort, if_neg hshort, if_pos hlong, if_pos hlong]
    rfl
  · rw [if_neg hshort, if_neg hshort, if_neg hlong, if_neg hlong]
    exact h

/-- Decoding and running a request commutes with `g`. -/
theorem execDecoded_decode_retime (r : Request) (s : State) :
    execDecoded (decode (retimeRequest g r)) (retimeState g s) = retimeOutcome g (execDecoded (decode r) s) := by
  cases r with
  | byteEvent b ss es => exact execFeed_retime g b ss es s
  | resetInput => exact execReset_retime g s
  | tableRow c f =>
    simp only [retimeRequest, decode]
    cases FieldId.ofCode c with
    | none => rfl
    | some id => exact execDecoded_checkFrame_retime g _ f (exec_ofRow_retime g id f s)
  | callDecode f =>
    exact execDecoded_checkFrame_retime g 2 f (next_deliver_retime g s (decodePass_retime g f))
  | callChkCompute m =>
    simp only [retimeRequest, decode]
    cases pairUp m <;> rfl
  | callChkValidate m =>
    simp only [retimeRequest, decode]
    by_cases hshort : m.length < Config.frameBytes
    · rw [if_pos hshort]
      rfl
    · rw [if_neg hshort]
      exact execChkValidate_retime g m s
  | callF32Decode lo hi => rfl

/-- A step commutes with any map of times, whether it goes on, faults or is refused. -/
theorem step_retime (s : State) : step (retimeState g s) = retimeOutcome g (step s) := by
  cases hin : s.input with
  | nil =>
    have hin' : (retimeState g s).input = [] := by rw [retimeState_input, hin, List.map_nil]
    rw [step_of_input_nil hin, step_of_input_nil hin', retimeOutcome_next]
  | cons r rest =>
    have hin' : (retimeState g s).input = retimeRequest g r :: rest.map (retimeRequest g) := by
      rw [retimeState_input, hin, List.map_cons]
    rw [step_of_input_cons hin, step_of_input_cons hin']
    exact execDecoded_decode_retime g r { s with input := rest }

end Sys2Proof.Machine
end

section
/-! The settled claim about times. -/

namespace Sys2Proof.Machine

/-- Settles O26, from the commutation of a step with any map of times. -/
theorem timesAreOnlyCopied : Obligations.TimesAreOnlyCopied := by
  intro g s t h
  rw [step_retime, h, retimeOutcome_next]

end Sys2Proof.Machine
end

section
/-! The invariants of R18 and the reset state: what a step runs, what it keeps, and where it starts from. -/

namespace Sys2Proof.Machine

open Sys2Proof.Claims

/-- Settles O19: waiting keeps the state, and every instruction keeps the invariants. -/
theorem everyStepKeepsTheAssemblyInvariants : Obligations.EveryStepKeepsTheAssemblyInvariants :=
  fun _ _ => step_inv

/-- A request that decodes is run on the state without it. -/
theorem step_of_decode {s : State} {r : Request} {rest : List Request} {i : Instr} (hin : s.input = r :: rest)
    (hd : decode r = .ok i) : step s = exec i { s with input := rest } := by
  rw [step_of_input_cons hin, hd]
  rfl

/-- Settles O6, by the equation of a step whose request decodes. -/
theorem stepRunsTheDecodedInstruction : Obligations.StepRunsTheDecodedInstruction :=
  fun _ _ _ _ => step_of_decode

/-- Settles O18: the reset state is a cleared one, and it has delivered nothing. -/
theorem resetStateMeetsTheInvariants : Obligations.ResetStateMeetsTheInvariants := by
  have hsink : SinkWellKinded State.reset := fun _ he => absurd he List.not_mem_nil
  exact ⟨inv_of_cleared ⟨rfl, rfl, rfl⟩, hsink, reset_buf_wf⟩

/-- A clear followed by a return leaves the three elements of the reset state. -/
theorem sameAssembly_reset_clear (s : State) (evs : List FieldEvent) :
    SameAssembly State.reset (s.clear.deliver evs) := ⟨rfl, rfl, rfl⟩

/-- Settles O17: RESET and a completing FEED both end in the clear of R70. -/
theorem resetStateIsEmpty : Obligations.ResetStateIsEmpty := by
  refine ⟨⟨rfl, rfl, rfl, rfl⟩, fun s => ⟨_, rfl, sameAssembly_reset_clear s []⟩, fun s t b ss es hc h => ?_⟩
  rcases execFeed_cases h with ⟨_, start, _, rfl⟩ | ⟨hc', _⟩
  · exact sameAssembly_reset_clear _ _
  · rw [hc] at hc'
    cases hc'

end Sys2Proof.Machine
end

section
/-! Two states in agreement (R26): an instruction reads the three elements and nothing else of the state, so that two
states with the same three elements go on or stop alike; and so do a step, and a run after a RESET. -/

namespace Sys2Proof.Machine

open Sys2Proof.Claims

/-- `t₁` and `t₂`, reached from `s₁` and `s₂` by one instruction, agree: the same three elements, the same events
delivered, the same result, and the two inputs untouched. -/
structure NextAgree (s₁ s₂ t₁ t₂ : State) : Prop where
  assembly : SameAssembly t₁ t₂
  gain : ∃ out, t₁.sink = s₁.sink ++ out ∧ t₂.sink = s₂.sink ++ out
  input₁ : t₁.input = s₁.input
  input₂ : t₂.input = s₂.input
  ret : t₁.ret = t₂.ret

/-- The outcomes of one instruction in `s₁` and in `s₂` agree: both go on, in agreement, or both stop for one reason. -/
inductive OutcomesAgree (s₁ s₂ : State) :
    Host.Outcome State Fault Refusal → Host.Outcome State Fault Refusal → Prop
  | next {t₁ t₂ : State} (h : NextAgree s₁ s₂ t₁ t₂) : OutcomesAgree s₁ s₂ (.next t₁) (.next t₂)
  | fault (e : Fault) : OutcomesAgree s₁ s₂ (.fault e) (.fault e)
  | refused (e : Refusal) : OutcomesAgree s₁ s₂ (.refused e) (.refused e)

section
variable {s₁ s₂ : State}

/-! ### The state's operations -/

theorem deliver_agree (h : SameAssembly s₁ s₂) (evs : List FieldEvent) :
    NextAgree s₁ s₂ (s₁.deliver evs) (s₂.deliver evs) :=
  ⟨h, ⟨evs, rfl, rfl⟩, rfl, rfl, rfl⟩

/-- After a clear the three elements agree from any two states. -/
theorem clear_deliver_agree (s₁ s₂ : State) (evs : List FieldEvent) :
    NextAgree s₁ s₂ (s₁.clear.deliver evs) (s₂.clear.deliver evs) :=
  ⟨⟨rfl, rfl, rfl⟩, ⟨evs, rfl, rfl⟩, rfl, rfl, rfl⟩

theorem answer_agree (h : SameAssembly s₁ s₂) (r : Returned) : NextAgree s₁ s₂ (s₁.answer r) (s₂.answer r) :=
  ⟨h, ⟨[], (List.append_nil _).symm, (List.append_nil _).symm⟩, rfl, rfl, rfl⟩

theorem accumulate_sameAssembly (h : SameAssembly s₁ s₂) (b : Byte) (ss : Time) :
    SameAssembly (s₁.accumulate b ss) (s₂.accumulate b ss) := by
  obtain ⟨hbuf, hexp, hts⟩ := h
  refine ⟨?_, ?_, ?_⟩ <;>
    simp only [State.accumulate_buf, State.accumulate_expLen, State.accumulate_tsStart, hbuf, hexp, hts]

/-- The completion test reads the latched length and the buffer. -/
theorem complete_eq_of_sameAssembly (h : SameAssembly s₁ s₂) : s₂.complete = s₁.complete := by
  obtain ⟨hbuf, hexp, _⟩ := h
  unfold State.complete
  rw [hexp, hbuf]

/-- FEED's first two sub-steps touch neither the sink nor the input. -/
theorem nextAgree_of_accumulate {b : Byte} {ss : Time} {t₁ t₂ : State}
    (h : NextAgree (s₁.accumulate b ss) (s₂.accumulate b ss) t₁ t₂) : NextAgree s₁ s₂ t₁ t₂ where
  assembly := h.assembly
  gain := by simpa only [State.accumulate_sink] using h.gain
  input₁ := by simpa only [State.accumulate_input] using h.input₁
  input₂ := by simpa only [State.accumulate_input] using h.input₂
  ret := h.ret

/-! ### The instructions -/

/-- FEED of a byte that completes a frame of which no start time is held (log 6). -/
theorem execFeed_startUnset {b : Byte} {ss es : Time} {s : State} (hc : (s.accumulate b ss).complete = true)
    (hs : (s.accumulate b ss).tsStart = none) : execFeed b ss es s = .fault .startTimeUnset := by
  simp only [execFeed, hc, hs, if_true]

/-- FEED's test, its stop and its events are functions of the accumulated elements. -/
theorem execFeed_agree (h : SameAssembly s₁ s₂) (b : Byte) (ss es : Time) :
    OutcomesAgree s₁ s₂ (execFeed b ss es s₁) (execFeed b ss es s₂) := by
  have ha := accumulate_sameAssembly h b ss
  have hc := complete_eq_of_sameAssembly ha
  have ⟨hbuf, _, hts⟩ := ha
  cases hdone : (s₁.accumulate b ss).complete with
  | false =>
    rw [execFeed_incomplete hdone, execFeed_incomplete (hc.trans hdone)]
    exact .next (nextAgree_of_accumulate (deliver_agree ha []))
  | true =>
    cases hstart : (s₁.accumulate b ss).tsStart with
    | none =>
      rw [execFeed_startUnset hdone hstart, execFeed_startUnset (hc.trans hdone) (hts.trans hstart)]
      exact .fault _
    | some start =>
      rw [execFeed_complete hdone hstart, execFeed_complete (hc.trans hdone) (hts.trans hstart), hbuf]
      exact .next (nextAgree_of_accumulate (clear_deliver_agree _ _ _))

/-- CHK_VALIDATE reads its operand alone. -/
theorem execChkValidate_agree (h : SameAssembly s₁ s₂) (m : List Byte) :
    OutcomesAgree s₁ s₂ (execChkValidate m s₁) (execChkValidate m s₂) := by
  unfold execChkValidate
  cases chkValidate m with
  | none => exact .refused _
  | some r => exact .next (answer_agree h _)

/-- Every instruction's outcome is decided by the three elements: FEED reads them, RESET clears them, and every other
row delivers or answers something that its operand alone decides. -/
theorem exec_agree (h : SameAssembly s₁ s₂) (i : Instr) : OutcomesAgree s₁ s₂ (exec i s₁) (exec i s₂) := by
  cases i
  case feed b ss es => exact execFeed_agree h b ss es
  case reset => exact .next (clear_deliver_agree s₁ s₂ [])
  case reserved31 f => exact .refused _
  case chkCompute ps => exact .next (answer_agree h _)
  case chkValidate m => exact execChkValidate_agree h m
  case f32Decode lo hi => exact .next (answer_agree h _)
  all_goals exact .next (deliver_agree h _)

theorem execDecoded_agree (h : SameAssembly s₁ s₂) (d : Except DecodeError Instr) :
    OutcomesAgree s₁ s₂ (execDecoded d s₁) (execDecoded d s₂) := by
  cases d with
  | ok i => exact exec_agree h i
  | error e => exact .refused _

/-! ### The step -/

/-- One step on the same request, whatever else stands behind it. -/
theorem step_agree (h : SameAssembly s₁ s₂) {r : Request} {rest₁ rest₂ : List Request}
    (hin₁ : s₁.input = r :: rest₁) (hin₂ : s₂.input = r :: rest₂) :
    OutcomesAgree { s₁ with input := rest₁ } { s₂ with input := rest₂ } (step s₁) (step s₂) := by
  rw [step_of_input_cons hin₁, step_of_input_cons hin₂]
  exact execDecoded_agree (s₁ := { s₁ with input := rest₁ }) (s₂ := { s₂ with input := rest₂ }) h (decode r)

end

/-- Settles O60: with nothing presented both states wait; otherwise both run the same request. -/
theorem everyStepKeepsStatesInAgreement : Obligations.EveryStepKeepsStatesInAgreement := by
  intro s₁ s₂ h hhead
  cases hin₁ : s₁.input with
  | nil =>
    have hin₂ : s₂.input = [] := by
      rwa [hin₁, List.head?_nil, eq_comm, List.head?_eq_none_iff] at hhead
    rw [step_of_input_nil hin₁, step_of_input_nil hin₂]
    refine ⟨fun t₁ ht₁ => ?_, fun _ he => (nomatch he), fun _ he => (nomatch he)⟩
    cases ht₁
    exact ⟨s₂, [], rfl, h, (List.append_nil _).symm, (List.append_nil _).symm, hin₁, by rw [hin₂, List.tail_nil],
      fun hne => absurd rfl hne⟩
  | cons r rest₁ =>
    obtain ⟨rest₂, hin₂⟩ : ∃ rest₂, s₂.input = r :: rest₂ := by
      rw [hin₁, List.head?_cons, eq_comm] at hhead
      exact List.head?_eq_some_iff.mp hhead
    have hstep := step_agree h hin₁ hin₂
    generalize step s₁ = o₁ at hstep ⊢
    generalize step s₂ = o₂ at hstep ⊢
    cases hstep with
    | next hn =>
      obtain ⟨hasm, ⟨out, hout₁, hout₂⟩, hrest₁, hrest₂, hret⟩ := hn
      refine ⟨fun t₁ ht₁ => ?_, fun _ he => (nomatch he), fun _ he => (nomatch he)⟩
      cases ht₁
      exact ⟨_, out, rfl, hasm, hout₁, hout₂, hrest₁, by rw [hrest₂, hin₂, List.tail_cons], fun _ => hret⟩
    | fault e => exact ⟨fun _ ht => (nomatch ht), fun _ he => he, fun _ he => (nomatch he)⟩
    | refused e => exact ⟨fun _ ht => (nomatch ht), fun _ he => (nomatch he), fun _ he => he⟩

/-! ### Runs after a RESET -/

/-- In every state of R18 a step on what a source presents goes on (R186). -/
theorem step_next_of_fromSource {s : State} (hi : AssemblyInv s) {r : Request} {rest : List Request}
    (hin : s.input = r :: rest) (hr : r.fromSource = true) : ∃ t, step s = .next t := by
  cases r with
  | byteEvent b ss es =>
    rw [step_of_decode hin rfl]
    exact execFeed_next (inv_withInput hi rest) b ss es
  | resetInput => exact ⟨_, step_of_decode hin rfl⟩
  | tableRow | callDecode | callChkCompute | callChkValidate | callF32Decode => cases hr

/-- The same source operations, run from two states of R18 that agree, keep them in agreement. -/
theorem run_agree (reqs rest₁ rest₂ : List Request) (hsrc : ∀ r ∈ reqs, r.fromSource = true) :
    ∀ s₁ s₂ : State, AssemblyInv s₁ → SameAssembly s₁ s₂ → s₁.ret = s₂.ret →
      s₁.input = reqs ++ rest₁ → s₂.input = reqs ++ rest₂ →
      ∃ t₁ t₂, Host.Core.run Sys2Proof.core reqs.length s₁ = .next t₁ ∧
        Host.Core.run Sys2Proof.core reqs.length s₂ = .next t₂ ∧
        NextAgree { s₁ with input := rest₁ } { s₂ with input := rest₂ } t₁ t₂ := by
  induction reqs with
  | nil =>
    intro s₁ s₂ _ h hret hin₁ hin₂
    exact ⟨s₁, s₂, rfl, rfl, h, ⟨[], (List.append_nil _).symm, (List.append_nil _).symm⟩, hin₁, hin₂, hret⟩
  | cons r reqs ih =>
    intro s₁ s₂ hi h _ hin₁ hin₂
    obtain ⟨hr, hreqs⟩ := List.forall_mem_cons.mp hsrc
    obtain ⟨u₁, hu₁⟩ := step_next_of_fromSource hi hin₁ hr
    have hstep := step_agree h hin₁ hin₂
    rw [hu₁] at hstep
    generalize hu₂ : step s₂ = o₂ at hstep
    cases hstep with
    | @next _ u₂ hn =>
      obtain ⟨hasm, ⟨out, hout₁, hout₂⟩, hrest₁, hrest₂, hret⟩ := hn
      obtain ⟨t₁, t₂, hrun₁, hrun₂, ht⟩ := ih hreqs u₁ u₂ (step_inv hi hu₁) hasm hret hrest₁ hrest₂
      obtain ⟨more, hmore₁, hmore₂⟩ := ht.gain
      refine ⟨t₁, t₂, (run_succ _ _ _ hu₁).trans hrun₁, (run_succ _ _ _ hu₂).trans hrun₂, ht.assembly,
        ⟨out ++ more, ?_, ?_⟩, ht.input₁, ht.input₂, ht.ret⟩
      · rw [hmore₁, hout₁, List.append_assoc]
      · rw [hmore₂, hout₂, List.append_assoc]

/-- Settles O25: the RESET clears both states alike (R74, D15), and the operations behind it keep them in agreement. -/
theorem resetMakesRunsRepeatable : Obligations.ResetMakesRunsRepeatable := by
  intro s₁ s₂ reqs rest₁ rest₂ hsrc hin₁ hin₂
  have hu₁ : step s₁ = .next (State.deliver (State.clear { s₁ with input := reqs ++ rest₁ }) []) :=
    step_of_decode hin₁ rfl
  have hu₂ : step s₂ = .next (State.deliver (State.clear { s₂ with input := reqs ++ rest₂ }) []) :=
    step_of_decode hin₂ rfl
  obtain ⟨t₁, t₂, hrun₁, hrun₂, hasm, ⟨out, hout₁, hout₂⟩, hrest₁, hrest₂, hret⟩ :=
    run_agree reqs rest₁ rest₂ hsrc _ _ (clear_inv { s₁ with input := reqs ++ rest₁ } [])
      (clear_deliver_agree _ { s₂ with input := reqs ++ rest₂ } []).assembly rfl rfl rfl
  refine ⟨out, t₁, t₂, (run_succ _ _ _ hu₁).trans hrun₁, (run_succ _ _ _ hu₂).trans hrun₂, hasm, ?_, ?_, hret,
    hrest₁, hrest₂⟩
  · simpa only [State.deliver_sink, State.clear_sink, List.append_nil] using hout₁
  · simpa only [State.deliver_sink, State.clear_sink, List.append_nil] using hout₂

end Sys2Proof.Machine
end

section
/-! The smaller state of R29: each of FEED's sub-steps on it is the full one's, seen through `State.reduce`. -/

namespace Sys2Proof.Machine

open Sys2Proof.Claims

/-- The latch sees the first two bytes only, which the store keeps. -/
theorem lengthPrefix_take {m : Memory} {n : Nat} (h : 2 ≤ n) : lengthPrefix (m.take n) = lengthPrefix m := by
  rw [lengthPrefix_eq_wordAt, lengthPrefix_eq_wordAt, wordAt_take (by omega)]

/-- Storing a byte when there is room keeps the first `n` bytes. -/
theorem take_append_singleton (m : List Byte) (b : Byte) (n : Nat) :
    (m ++ [b]).take n = if (m.take n).length < n then m.take n ++ [b] else m.take n := by
  have hlen : (m.take n).length = min n m.length := List.length_take
  have hlen' : (m ++ [b]).length = m.length + 1 := List.length_append
  by_cases h : m.length < n
  · have hroom : (m.take n).length < n := by omega
    rw [if_pos hroom, List.take_of_length_le (by omega), List.take_of_length_le (by omega)]
  · have hfull : ¬ (m.take n).length < n := by omega
    rw [if_neg hfull, List.take_append_of_le_length (by omega)]

/-- The 16-bit count is 0 only when the buffer is empty, since the buffer stays below 65536 bytes. -/
theorem count_eq_zero_iff {m : Memory} (h : m.length ≤ 65535) : BitVec.ofNat 16 m.length = 0 ↔ m = [] := by
  have hmod : m.length % 2 ^ 16 = m.length := Nat.mod_eq_of_lt (by omega)
  rw [← List.length_eq_zero_iff, ← BitVec.toNat_inj, BitVec.toNat_ofNat, hmod]
  rfl

/-- Two reduced states with equal fields are equal. -/
theorem Reduced.eq_of_fields {r q : Reduced} (hcnt : r.cnt = q.cnt) (hstore : r.store = q.store)
    (hexp : r.expLen = q.expLen) (hts : r.tsStart = q.tsStart) : r = q := by
  cases r
  cases q
  cases hcnt
  cases hstore
  cases hexp
  cases hts
  rfl

/-- FEED steps 1 and 2 on the reduced state are those on the full one. -/
theorem reduce_accumulate {s : State} (hi : AssemblyInv s) (b : Byte) (ss : Time) :
    s.reduce.accumulate b ss = (s.accumulate b ss).reduce := by
  have hle := buf_length_le_of_inv hi
  have hstore : (s.reduce.accumulate b ss).store = (s.buf ++ [b]).take Config.frameBytes :=
    (take_append_singleton s.buf b Config.frameBytes).symm
  apply Reduced.eq_of_fields
  case hcnt =>
    change BitVec.ofNat 16 s.buf.length + 1 = BitVec.ofNat 16 (s.accumulate b ss).buf.length
    rw [State.accumulate_buf, List.length_append, List.length_singleton, BitVec.ofNat_add]
    rfl
  case hstore =>
    change _ = (s.accumulate b ss).buf.take Config.frameBytes
    rw [hstore, State.accumulate_buf]
  case hexp =>
    change (if s.expLen.isNone then lengthPrefix (s.reduce.accumulate b ss).store else s.expLen) =
      (s.accumulate b ss).expLen
    rw [hstore, lengthPrefix_take (by decide), State.accumulate_expLen]
    cases s.expLen <;> rfl
  case hts =>
    change (if BitVec.ofNat 16 s.buf.length = 0 then some ss else s.tsStart) = (s.accumulate b ss).tsStart
    simp only [count_eq_zero_iff (m := s.buf) (by omega), State.accumulate_tsStart]

/-- The completion test reads the count alone, which is the buffer's length. -/
theorem reduce_complete {s : State} (h : s.buf.length ≤ 65535) : s.reduce.complete = s.complete := by
  have hmod : s.buf.length % 2 ^ 16 = s.buf.length := Nat.mod_eq_of_lt (by omega)
  unfold Reduced.complete State.complete State.reduce
  cases s.expLen with
  | none => rfl
  | some l => simp only [BitVec.le_def, BitVec.toNat_ofNat, hmod]

/-- A pass on the first 114 bytes is the pass on the whole buffer (R99). -/
theorem decodePass_take (m : Memory) (start stop : Time) :
    decodePass { bytes := m.take 114, start := start, stop := stop } =
      decodePass { bytes := m, start := start, stop := stop } := by
  by_cases h : m.length < 114
  · rw [List.take_of_length_le (by omega)]
  · have hlen : 114 ≤ (m.take 114).length := by rw [List.length_take]; omega
    have htake : (m.take 114).take 114 = m.take 114 := by rw [List.take_take, Nat.min_self]
    exact decodePass_congr hlen (Nat.not_lt.mp h) htake rfl rfl

theorem reduce_of_clear (s : State) (evs : List FieldEvent) : (s.clear.deliver evs).reduce = Reduced.reset := rfl

/-- Settles O58: both FEEDs accumulate, test and decode alike, and both clear to the reset state. -/
theorem reducedStateRefinesTheFullState : Obligations.ReducedStateRefinesTheFullState := by
  refine ⟨rfl, fun _ => rfl, fun s t b ss es hi h => ?_⟩
  have hacc := reduce_accumulate hi b ss
  have hcomplete := reduce_complete (accumulate_buf_length_le_of_inv hi b ss)
  rcases execFeed_cases h with ⟨hc, start, hs, rfl⟩ | ⟨hc, rfl⟩
  · have hs' : (s.accumulate b ss).reduce.tsStart = some start := hs
    have hpass := decodePass_take (s.accumulate b ss).buf start es
    simp only [Reduced.feed, hacc, hcomplete, hc, if_true, hs', Option.map_some, reduce_of_clear]
    exact congrArg (fun evs => some (evs, Reduced.reset)) hpass
  · simp only [Reduced.feed, hacc, hcomplete, hc]
    rfl

end Sys2Proof.Machine
end

section
/-! Several instances (R30, R192): a step at place `k` writes place `k` only, and reads place `k` only. -/

namespace Sys2Proof.Machine

variable {j k : Nat} {bank bank' : Bank}

/-- Everything a step at place `k` can do: nothing where the bank ends before it, or one step of the state held there. -/
theorem stepInstance_cases (h : stepInstance k bank = .next bank') :
    (bank[k]? = none ∧ bank' = bank) ∨
    (∃ s s', bank[k]? = some s ∧ step s = .next s' ∧ bank' = bank.set k s') := by
  unfold stepInstance at h
  split at h
  · rename_i hk
    cases h
    exact .inl ⟨hk, rfl⟩
  · rename_i s hk
    split at h
    · rename_i s' hs
      cases h
      exact .inr ⟨s, s', hk, hs, rfl⟩
    · cases h
    · cases h

/-- The instances at other places are left as they were. -/
theorem stepInstance_getElem?_of_ne (h : stepInstance k bank = .next bank') (hjk : j ≠ k) :
    bank'[j]? = bank[j]? := by
  rcases stepInstance_cases h with ⟨_, rfl⟩ | ⟨_, _, _, _, rfl⟩
  · rfl
  · exact List.getElem?_set_ne hjk.symm

/-- The stepped place ends in the next state of the one it held. -/
theorem stepInstance_getElem?_self {s : State} (hk : bank[k]? = some s) (h : stepInstance k bank = .next bank') :
    ∃ s', step s = .next s' ∧ bank'[k]? = some s' := by
  obtain ⟨hlt, _⟩ := List.getElem?_eq_some_iff.mp hk
  rcases stepInstance_cases h with ⟨hnone, _⟩ | ⟨u, u', hu, hstep, rfl⟩
  · rw [hk] at hnone
    cases hnone
  · rw [hk, Option.some.injEq] at hu
    subst hu
    exact ⟨u', hstep, List.getElem?_set_self hlt⟩

/-- The step reads no other place: in two banks that hold the same at place `k`, its step leaves the
same there. -/
theorem stepInstance_getElem?_congr {other other' : Bank} (hk : bank[k]? = other[k]?)
    (h : stepInstance k bank = .next bank') (hother : stepInstance k other = .next other') :
    bank'[k]? = other'[k]? := by
  cases hs : bank[k]? with
  | none =>
    rcases stepInstance_cases h with ⟨_, rfl⟩ | ⟨_, _, hsome, _⟩
    · rcases stepInstance_cases hother with ⟨_, rfl⟩ | ⟨_, _, hsome, _⟩
      · exact hk
      · rw [← hk, hs] at hsome
        cases hsome
    · rw [hs] at hsome
      cases hsome
  | some s =>
    obtain ⟨u, hu, hbank⟩ := stepInstance_getElem?_self hs h
    obtain ⟨v, hv, hother'⟩ := stepInstance_getElem?_self (hk ▸ hs) hother
    rw [hu, Host.Outcome.next.injEq] at hv
    rw [hbank, hother', hv]

/-- Settles O59: place by place, either order leaves what one step of the state held there leaves. -/
theorem instancesAreIndependent : Obligations.InstancesAreIndependent := by
  refine ⟨fun _ _ _ _ => stepInstance_getElem?_of_ne, fun _ _ _ _ => stepInstance_getElem?_self, ?_⟩
  intro j k bank b₁ b₂ c₁ c₂ hjk hb₁ hb₂ hc₁ hc₂
  refine List.ext_getElem? fun n => ?_
  by_cases hj : n = j
  · subst hj
    calc b₂[n]? = b₁[n]? := stepInstance_getElem?_of_ne hb₂ hjk
      _ = c₂[n]? := stepInstance_getElem?_congr (stepInstance_getElem?_of_ne hc₁ hjk).symm hb₁ hc₂
  by_cases hk : n = k
  · subst hk
    calc b₂[n]? = c₁[n]? := stepInstance_getElem?_congr (stepInstance_getElem?_of_ne hb₁ hj) hb₂ hc₁
      _ = c₂[n]? := (stepInstance_getElem?_of_ne hc₂ hj).symm
  · calc b₂[n]? = b₁[n]? := stepInstance_getElem?_of_ne hb₂ hk
      _ = bank[n]? := stepInstance_getElem?_of_ne hb₁ hj
      _ = c₁[n]? := (stepInstance_getElem?_of_ne hc₁ hk).symm
      _ = c₂[n]? := (stepInstance_getElem?_of_ne hc₂ hj).symm

end Sys2Proof.Machine
end

section
/-! Mixed widths (R34): the float view is the four-byte read, as the word view is the two-byte read of `memRead_two`. -/

namespace Sys2Proof.Machine

/-- Both sides are two word reads, the first of them the low half. -/
theorem memRead_four (m : Memory) (i : Nat) : memRead m (2 * i) 4 = (floatAt m i).map BitVec.toNat := by
  calc memRead m (2 * i) 4
    _ = (wordAt m i).bind fun lo =>
          (memRead m (2 * (i + 1)) 2).map fun y => lo.toNat + 65536 * y := memRead_word m i 1
    _ = (floatAt m i).map BitVec.toNat := by
      rw [memRead_two, floatAt]
      cases wordAt m i with
      | none => rfl
      | some lo =>
        cases wordAt m (i + 1) with
        | none => rfl
        | some hi => exact congrArg some (f32Decode_toNat lo hi).symm

/-- Settles O51: the read is the float's number, and a pattern is fixed by its number. -/
theorem floatIsAFourByteRead : Obligations.FloatIsAFourByteRead := by
  intro m i p
  rw [memRead_four, ← Option.map_some]
  exact (Option.map_injective fun _ _ => BitVec.eq_of_toNat_eq).eq_iff.symm

end Sys2Proof.Machine
end

section
/-! Encoding (R47, R50): the decoder and the encoder are inverse to each other on what is well formed, and refuse what
the identifier map does not hold. -/

namespace Sys2Proof.Machine

/-! ### Decoding what was encoded -/

/-- The decoder accepts a well-formed instruction's own request: a row's identifier is in the map and its frame passes
the check, a byte range of pairs pairs up again, and the other operands are handed over as they are. -/
theorem decode_encode {i : Instr} (h : i.wf = true) : decode (encode i) = .ok i := by
  cases i
  case feed b ss es => rfl
  case reset => rfl
  case decode f =>
    obtain ⟨hleast, hmost⟩ := (Frame.completed_iff f).mp h
    exact (checkFrame_eq_ok 2 f (.decode f) (.decode f)).mpr ⟨hleast, hmost, rfl⟩
  case chkCompute ps => simp only [encode, decode, pairUp_flattenPairs]
  case chkValidate m => exact if_neg (Nat.not_lt.mpr (of_decide_eq_true h))
  case f32Decode lo hi => rfl
  all_goals exact decode_tableRow _ _ h

/-- Settles O2, by the form of the instruction. -/
theorem decodeOfEncodeIsTheInstruction : Obligations.DecodeOfEncodeIsTheInstruction :=
  fun _ => decode_encode

/-! ### Encoding what was decoded -/

/-- The request of an accepted instruction is the one it was read from: only the identifier map and the pairing of a
byte range could lose anything, and neither does. -/
theorem encode_of_decode {r : Request} {i : Instr} (h : decode r = .ok i) : encode i = r := by
  cases r with
  | byteEvent b ss es => cases h; rfl
  | resetInput => cases h; rfl
  | tableRow c f =>
    simp only [decode] at h
    cases hid : FieldId.ofCode c with
    | none => rw [hid] at h; cases h
    | some id =>
      rw [hid] at h
      obtain ⟨_, _, rfl⟩ := (checkFrame_eq_ok _ _ _ _).mp h
      rw [encode_ofRow, FieldId.code_of_ofCode c id hid]
  | callDecode f =>
    obtain ⟨_, _, rfl⟩ := (checkFrame_eq_ok _ _ _ _).mp h
    rfl
  | callChkCompute m =>
    simp only [decode] at h
    cases hps : pairUp m with
    | none => rw [hps] at h; cases h
    | some ps =>
      rw [hps] at h
      cases h
      exact congrArg Request.callChkCompute (flattenPairs_of_pairUp m ps hps)
  | callChkValidate m =>
    simp only [decode] at h
    split at h
    · cases h
    · cases h; rfl
  | callF32Decode lo hi => cases h; rfl

/-- Settles O3, by the form of the request. -/
theorem encodeOfDecodeIsTheRequest : Obligations.EncodeOfDecodeIsTheRequest :=
  fun _ _ => encode_of_decode

/-! ### Table words -/

/-- A word whose low six bits are an identifier's code is read as that row, on a frame of zeros (log 10). -/
theorem decodeTableWord_of_code {nbits w : Nat} (id : FieldId) (hbits : nbits ≠ 0)
    (hw : BitVec.ofNat Config.idBits w = id.code) :
    decodeTableWord nbits w = some (Instr.ofRow id Frame.zeros) := by
  have hzeros : Frame.zeros.guarded = true := by
    rw [Frame.guarded_iff, Frame.zeros, List.length_replicate]
    decide
  simp only [decodeTableWord, if_neg hbits, tableRequest, hw, decode_tableRow id Frame.zeros hzeros]

/-- Settles O1: the twelve words are the codes of their rows. -/
theorem tableWordsDecodeToTheirRows : Obligations.TableWordsDecodeToTheirRows := by
  have row (id : FieldId) : decodeTableWord 8 id.code.toNat = some (Instr.ofRow id Frame.zeros) :=
    decodeTableWord_of_code id (by decide) (by rw [BitVec.ofNat_toNat, BitVec.setWidth_eq])
  exact ⟨row .summary, row .length, row .depth, row .waterPressure, row .displayLabel, row .usbVoltage,
    row .targetCode, row .sensorTiming, row .accel, row .reserved31, row .checksumOk, row .checksumError⟩

/-! ### What is refused -/

theorem decode_tableRow_unassigned {c : BitVec Config.idBits} (f : Frame) (h : 34 ≤ c.toNat) :
    decode (.tableRow c f) = .error (.unassignedIdentifier c) := by
  simp only [decode, (FieldId.ofCode_eq_none c).mpr h]

/-- A request that is no instruction is refused under the decoder's own reason. -/
theorem step_of_decode_error {s : State} {r : Request} {rest : List Request} {e : DecodeError}
    (hin : s.input = r :: rest) (hd : decode r = .error e) : step s = .refused (.undecodable e) := by
  rw [step_of_input_cons hin, hd]
  rfl

/-- Settles O4: the identifier map ends at 33 (R60), and a step passes the decoder's refusal on. -/
theorem unassignedIdentifiersAreRefused : Obligations.UnassignedIdentifiersAreRefused := by
  intro c f hc
  have hd := decode_tableRow_unassigned f hc
  exact ⟨hd, fun s rest hin => step_of_decode_error hin hd⟩

/-- Settles O5: the row's meaning is the refusal itself (log 7). -/
theorem reservedIdentifierIsRefused : Obligations.ReservedIdentifierIsRefused :=
  fun _ _ => rfl

end Sys2Proof.Machine
end

section
/-! The kinds of the delivered events (R50, R52, R60): every step adds to the sink events of their identifiers' kinds
only, and identifier 31 has no kind. -/

namespace Sys2Proof.Machine

/-- Identifier 31 has no payload kind (R60), so no event of it is of its kind. -/
theorem FieldEvent.fieldId_ne_reserved31 {e : FieldEvent} (h : e.wellKinded = true) : e.fieldId ≠ .reserved31 := by
  intro hid
  have hkind : fieldKind e.fieldId = some e.payload.kind := of_decide_eq_true h
  rw [hid] at hkind
  cases hkind

/-- An instruction keeps what was delivered and adds events of the right kinds. -/
theorem exec_sinkWellKinded {i : Instr} {s t : State} (hs : SinkWellKinded s) (h : exec i s = .next t) :
    SinkWellKinded t := by
  obtain ⟨evs, hsink, hevs⟩ := exec_sink h
  intro e he
  rw [hsink, List.mem_append] at he
  exact he.elim (hs e) (hevs e)

/-- Waiting delivers nothing, and every instruction keeps the kinds. -/
theorem step_sinkWellKinded {s t : State} (hs : SinkWellKinded s) (h : step s = .next t) : SinkWellKinded t := by
  rcases step_cases h with ⟨_, rfl⟩ | ⟨_, rest, _, _, _, hexec⟩
  · exact hs
  · exact exec_sinkWellKinded (s := { s with input := rest }) hs hexec

/-- Settles O20: the kinds are kept by every step, and they shut identifier 31 out. -/
theorem everyStepKeepsEventsWellKinded : Obligations.EveryStepKeepsEventsWellKinded := by
  intro s t hs h
  have ht := step_sinkWellKinded hs h
  exact ⟨ht, fun e he => FieldEvent.fieldId_ne_reserved31 (ht e he)⟩

end Sys2Proof.Machine
end

section
/-! No operation fails (R61, R186): in a state of R18 FEED always has its start time, and nothing else a source can
present has a stop. -/

namespace Sys2Proof.Machine

open Sys2Proof.Claims

/-- FEED returns events, whether or not the frame completes. -/
theorem execFeed_ret {b : Byte} {ss es : Time} {s t : State} (h : execFeed b ss es s = .next t) :
    ∃ evs, t.ret = .events evs := by
  rcases execFeed_cases h with ⟨_, _, _, rfl⟩ | ⟨_, rfl⟩ <;> exact ⟨_, rfl⟩

theorem eventsFrom_decode (f : Frame) (s : State) : eventsFrom (.decode f) s = decodePass f := rfl

theorem emitsNothing_decode_short {f : Frame} (h : f.bytes.length < 114) : EmitsNothing (.decode f) := by
  intro s
  change Host.Outcome.next (s.deliver (decodePass f)) = _
  rw [decodePass_short h, State.deliver, List.append_nil]

/-- Settles O14, operation by operation. -/
theorem noOperationCanFail : Obligations.NoOperationCanFail := by
  refine ⟨fun s b ss es hi => ?feed, fun s => ⟨_, rfl, rfl⟩, fun _ _ _ hi => step_next_of_fromSource hi,
    fun _ _ => ⟨_, rfl⟩, fun f s hlen => ?whole, fun _ => emitsNothing_decode_short⟩
  case feed =>
    obtain ⟨t, ht⟩ := execFeed_next hi b ss es
    obtain ⟨evs, hret⟩ := execFeed_ret ht
    exact ⟨t, evs, ht, hret⟩
  case whole => rw [eventsFrom_decode, decodePass_length (Nat.le_of_eq hlen.symm)]

end Sys2Proof.Machine
end

section
/-! Packing (R53): a packed event is read back from its beat, and the packed payload of a row of R50 is the read of the
row's own words. -/

namespace Sys2Proof.Machine

open Sys2Proof.Claims

/-! ### Reading an event back -/

/-- The beat's identifier is in the map, and its payload unpacks under the identifier's kind. -/
theorem event_beat {e : FieldEvent} (h : e.wellKinded = true) : e.beat.event = some e := by
  have hkind : fieldKind e.fieldId = some e.payload.kind := of_decide_eq_true h
  simp only [OutBeat.event, FieldEvent.beat, FieldId.ofCode_code, hkind, Option.map_some, unpack_pack]

/-- Widening leaves the high bits zero. -/
theorem setWidth_toNat_lt {n : Nat} (x : BitVec n) (k : Nat) : (x.setWidth k).toNat < 2 ^ n := by
  rw [BitVec.toNat_setWidth]
  exact Nat.lt_of_le_of_lt (Nat.mod_le _ _) x.isLt

/-- Each packing is its fields, which take `kindBits` bits in all, widened to 96 bits. -/
theorem pack_toNat_lt (p : Payload) : p.pack.toNat < 2 ^ kindBits p.kind := by
  cases p <;> exact setWidth_toNat_lt _ 96

/-- Settles O52, from the two halves. -/
theorem packedEventsReadBack : Obligations.PackedEventsReadBack :=
  fun e h => ⟨event_beat h, pack_toNat_lt e.payload⟩

/-! ### The rows as the field table gives them -/

/-- The payload that a kind of R52 makes of the words from `a` on; the checksum's and the summary's kinds have no words
of their own. -/
def Kind.payloadAt (k : Kind) (m : Memory) (a : Nat) : Option Payload :=
  match k with
  | .u16 => u16Payload m a
  | .scaled n => scaledPayload n m a
  | .ascii2 => ascii2Payload m a
  | .ascii4 => ascii4Payload m a
  | .u16x6 => u16x6Payload m a
  | .f32x3 => f32x3Payload m a
  | .chk => none
  | .sum => none

/-- How many source words a payload of a kind takes (R52). -/
def Kind.words : Kind → Option Nat
  | .u16 => some 1
  | .scaled _ => some 1
  | .ascii2 => some 1
  | .ascii4 => some 2
  | .u16x6 => some 6
  | .f32x3 => some 6
  | .chk => none
  | .sum => none

/-- What a row with source words is, as an instruction: it emits the payload that its kind makes of them, and they are
as many as the kind takes, among the first 56 (R49, R50). -/
structure FollowsTable (id : FieldId) (a n : Nat) (f : Frame) (k : Kind) : Prop where
  kind : fieldKind id = some k
  count : k.words = some n
  bound : a + n ≤ 56
  meaning : ∀ s : State, exec (Instr.ofRow id f) s = .next (s.deliver (fieldEvent f id (k.payloadAt f.bytes a)))

/-- Every row with source words follows its line of the field table. -/
theorem followsTable_of_fieldWords {id : FieldId} {a n : Nat} (f : Frame) (h : fieldWords id = some (a, n)) :
    ∃ k, FollowsTable id a n f k := by
  cases id <;> cases h <;> exact ⟨_, rfl, rfl, by decide, fun _ => rfl⟩

/-- An instruction that delivers a row's event emits the row's payload, on a frame past the guard. -/
theorem emits_of_payload {i : Instr} {f : Frame} {id : FieldId} {o : Option Payload} {p : Payload}
    (hf : 114 ≤ f.bytes.length) (hx : ∀ s : State, exec i s = .next (s.deliver (fieldEvent f id o)))
    (ho : o = some p) : Emits i f id p := by
  intro s
  rw [hx, ho, fieldEvent_eq hf]
  rfl

/-! ### A payload as the read of its words -/

/-- The number that `n` words from `a` on stand for, the lowest index least significant. -/
def wordsValue (W : Nat → Word) (a : Nat) : Nat → Nat
  | 0 => 0
  | n + 1 => (W a).toNat + 65536 * wordsValue W (a + 1) n

/-- A read of whole words is the number they stand for (R13, R32). -/
theorem memRead_words {m : Memory} {W : Nat → Word} (hm : 114 ≤ m.length)
    (hW : ∀ i, i < 57 → wordAt m i = some (W i)) (a n : Nat) (h : a + n ≤ 57) :
    memRead m (2 * a) (2 * n) = some (wordsValue W a n) := by
  induction n generalizing a with
  | zero => exact if_pos (by omega)
  | succ n ih =>
    rw [memRead_word, hW a (by omega), ih (a + 1) (by omega)]
    rfl

/-- The packing of a kind's payload is the little-endian concatenation of its source words (R53). -/
theorem payloadAt_pack {m : Memory} {W : Nat → Word} (hW : ∀ i, i < 57 → wordAt m i = some (W i)) {k : Kind}
    {a n : Nat} (hk : k.words = some n) (h : a + n ≤ 56) :
    ∃ p, k.payloadAt m a = some p ∧ p.pack.toNat = wordsValue W a n := by
  have hF : ∀ i, i < 56 → floatAt m i = some (f32Decode (W i) (W (i + 1))) :=
    fun i hi => floatAt_eq (hW i (by omega)) (hW (i + 1) (by omega))
  cases k <;> cases hk
  case' u16 => refine ⟨_, u16Payload_eq (hW a (by omega)), ?_⟩
  case' scaled => refine ⟨_, scaledPayload_eq (hW a (by omega)), ?_⟩
  case' ascii2 => refine ⟨_, ascii2Payload_eq (hW a (by omega)), ?_⟩
  case' ascii4 => refine ⟨_, ascii4Payload_eq (hW a (by omega)) (hW (a + 1) (by omega)), ?_⟩
  case' u16x6 =>
    refine ⟨_, u16x6Payload_eq (hW a (by omega)) (hW (a + 1) (by omega)) (hW (a + 2) (by omega))
      (hW (a + 3) (by omega)) (hW (a + 4) (by omega)) (hW (a + 5) (by omega)), ?_⟩
  case' f32x3 =>
    refine ⟨_, f32x3Payload_eq (hF a (by omega)) (hF (a + 2) (by omega)) (hF (a + 4) (by omega)), ?_⟩
  all_goals
    simp only [Payload.pack, Config.payloadBits, BitVec.toNat_setWidth, append_toNat, char1_toNat, char2_toNat,
      f32Decode_toNat]
    simp only [wordsValue, Nat.add_assoc, Nat.reduceAdd]
    omega

/-- Settles O53: the row follows its line of the field table, and both its packed payload and the read are the number
its words stand for. -/
theorem packedPayloadIsTheSourceBytes : Obligations.PackedPayloadIsTheSourceBytes := by
  intro id a n f hid hf
  obtain ⟨k, hrow⟩ := followsTable_of_fieldWords f hid
  obtain ⟨W, hW⟩ := exists_words hf
  obtain ⟨p, hp, hpack⟩ := payloadAt_pack hW hrow.count hrow.bound
  have hbound : a + n ≤ 57 := Nat.le_succ_of_le hrow.bound
  exact ⟨p, emits_of_payload hf hrow.meaning hp, by rw [memRead_words hf hW a n hbound, hpack]⟩

end Sys2Proof.Machine
end

section
/-! FEED and RESET, one operation at a time (R66 to R80): FEED is said once for a byte that leaves the frame unfinished
and once for the byte that completes it, and the rows of R80 are read off. -/

namespace Sys2Proof.Machine

open Sys2Proof.Claims

/-! ### What a FEED does -/

/-- A latched length is the word of the first two bytes (R55, R68). -/
theorem lengthPrefix_eq_some_iff {m : Memory} {L : Word} : lengthPrefix m = some L ↔ WordIs m 0 L := by
  rw [lengthPrefix_eq_wordAt]
  exact wordAt_eq_some_iff

section
variable {s : State} (hi : AssemblyInv s) {b : Byte} {ss es : Time}
include hi

/-- FEED runs as the step on its byte event does, with the event in front of the input. -/
theorem exec_feed_unfinished
    (hL : ∀ L, lengthPrefix (s.buf ++ [b]) = some L → s.buf.length + 1 < L.toNat) :
    exec (.feed b ss es) s = .next { s with
      buf := s.buf ++ [b], expLen := lengthPrefix (s.buf ++ [b])
      tsStart := if s.buf = [] then some ss else s.tsStart, ret := .events [] } :=
  step_feed_unfinished (es := es) (inv_withInput hi (.byteEvent b ss es :: s.input)) rfl hL

/-- FEED of the completing byte, in the same way. -/
theorem exec_feed_completing {start : Time} {L : Word} (hs : s.tsStart = some start)
    (hp : lengthPrefix (s.buf ++ [b]) = some L) (hL : L.toNat ≤ s.buf.length + 1) :
    exec (.feed b ss es) s = .next { s with
      buf := [], expLen := none, tsStart := none
      sink := s.sink ++ decodePass { bytes := s.buf ++ [b], start := start, stop := es }
      ret := .events (decodePass { bytes := s.buf ++ [b], start := start, stop := es }) } :=
  step_feed_completing (inv_withInput hi (.byteEvent b ss es :: s.input)) rfl hs hp hL

/-- While bytes are held there is a start time (I-a). -/
theorem tsStart_of_buf_ne_nil (hb : s.buf ≠ []) : ∃ start, s.tsStart = some start :=
  Option.ne_none_iff_exists'.mp fun hn => hb (hi.startUnset.mp hn)

/-- A latched length stays the word of the first two bytes under one byte more (I-c). -/
theorem lengthPrefix_append_of_expLen {L : Word} (hl : s.expLen = some L) :
    lengthPrefix (s.buf ++ [b]) = some L :=
  lengthPrefix_mono b (hi.lengthIsPrefix L hl)

/-- With an empty buffer the other two elements are unset as well (I-a, I-b). -/
theorem cleared_of_buf_nil (hb : s.buf = []) : Cleared s :=
  ⟨hb, hi.lengthUnset.mpr (by rw [hb]; decide), hi.startUnset.mpr hb⟩

/-- With two bytes in a length is latched (I-b). -/
theorem expLen_of_two_le (h : 2 ≤ s.buf.length) : ∃ L, s.expLen = some L :=
  Option.ne_none_iff_exists'.mp fun hn => Nat.not_lt.mpr h (hi.lengthUnset.mp hn)

end

/-- A pass gives 32 events or none, by the frame's length (R98, R102). -/
theorem decodePass_length_eq (f : Frame) : (decodePass f).length = if f.bytes.length < 114 then 0 else 32 := by
  split
  case isTrue h => rw [decodePass_short h, List.length_nil]
  case isFalse h => exact decodePass_length (Nat.not_lt.mp h)

/-! ### The operations -/

/-- Settles O8: one byte makes no length yet (R68). -/
theorem firstByteStartsAFrame : Obligations.FirstByteStartsAFrame := by
  intro s b ss es hs
  have hx := exec_feed_unfinished (ss := ss) (es := es) (b := b) (inv_of_cleared hs)
  obtain ⟨hbuf, hexp, _⟩ := hs
  have hp : lengthPrefix (s.buf ++ [b]) = none := by rw [hbuf]; rfl
  rw [hx (by simp [hp]), hp, hbuf, ← hexp]
  rfl

/-- Settles O9: the two bytes are the length, which they have reached already when it is below 3. -/
theorem secondByteLatchesTheLength : Obligations.SecondByteLatchesTheLength := by
  intro s b0 b ss es L hi hb hw
  have hp : lengthPrefix (s.buf ++ [b]) = some L := by rw [hb]; exact lengthPrefix_eq_some_iff.mpr hw
  have hlen : s.buf.length = 1 := by rw [hb]; rfl
  refine ⟨fun h3 => ?longer, fun h2 => ?atOnce⟩
  case longer =>
    rw [exec_feed_unfinished hi fun L' hL' => ?_, hp, hb]
    · rfl
    · cases hp.symm.trans hL'
      omega
  case atOnce =>
    obtain ⟨start, hs⟩ := tsStart_of_buf_ne_nil hi (by simp [hb])
    have hshort : decodePass { bytes := s.buf ++ [b], start := start, stop := es } = [] :=
      decodePass_short (by simp [hb])
    rw [exec_feed_completing hi hs hp (by omega), hshort, List.append_nil]

/-- Settles O10: the latched length is still the word of the first two bytes, and one byte more does not reach it. -/
theorem byteBelowTheLengthIsStored : Obligations.ByteBelowTheLengthIsStored := by
  intro s b ss es L hi hl hlt
  have hp : lengthPrefix (s.buf ++ [b]) = some L := lengthPrefix_append_of_expLen hi hl
  have hb : s.buf ≠ [] := fun hnil => by
    rw [(cleared_of_buf_nil hi hnil).2.1] at hl
    cases hl
  rw [exec_feed_unfinished hi fun L' hL' => ?_, hp, if_neg hb, ← hl]
  cases hp.symm.trans hL'
  exact hlt

/-- Settles O11: the latched length is still the word of the first two bytes, and this byte reaches it. -/
theorem byteAtTheLengthCompletesTheFrame : Obligations.ByteAtTheLengthCompletesTheFrame := by
  intro s b ss es start L hi hl hs hlen
  refine ⟨_, rfl, ?_⟩
  rw [eventsFrom_decode]
  exact exec_feed_completing hi hs (lengthPrefix_append_of_expLen hi hl) (Nat.le_of_eq hlen.symm)

/-- Settles O13: RESET is the clear and a return of nothing. -/
theorem resetClearsTheThreeElements : Obligations.ResetClearsTheThreeElements := by
  intro s
  change Host.Outcome.next (s.clear.deliver []) = _
  rw [State.deliver, List.append_nil]
  rfl

/-- Settles O15: a completing FEED clears and returns one pass; any other only appends and latches. -/
theorem feedChangesOnlyItsOwnElements : Obligations.FeedChangesOnlyItsOwnElements := by
  intro s t b ss es h
  rcases execFeed_cases h with ⟨hc, start, _, rfl⟩ | ⟨hc, rfl⟩
  case inl =>
    refine ⟨State.accumulate_input s b ss, rfl, ?sink, ?count, fun _ => ⟨rfl, rfl, rfl⟩, fun hc' => ?not⟩
    case sink => simp [eventsOf]
    case count =>
      simp only [State.deliver_ret, eventsOf, decodePass_length_eq]
      split <;> simp
    case not => simp [hc] at hc'
  case inr =>
    refine ⟨State.accumulate_input s b ss, rfl, ?sink, .inl rfl, fun hc' => ?not, fun _ =>
      ⟨rfl, ?stored, fun a ha => ?others, fun hb => ?start, fun he => ?length⟩⟩
    case sink => simp [eventsOf]
    case not => simp [hc] at hc'
    case stored =>
      rw [State.deliver_buf, State.accumulate_buf]
      exact readByte_appendAddr s.buf b
    case others =>
      rw [State.deliver_buf, State.accumulate_buf]
      exact (readByte_bufAppend s.buf b a).trans (if_neg ha)
    case start => simp [hb]
    case length => simp [he]

/-! ### The transition table -/

theorem phase_eq_empty_iff {s : State} : s.phase = .empty ↔ s.buf = [] := by
  unfold State.phase
  split <;> simp_all

theorem phase_eq_accum_iff {s : State} : s.phase = .accum ↔ 2 ≤ s.buf.length := by
  unfold State.phase
  split <;> simp_all

/-- Settles O12: each row of R80 is one of the operations above, read at the next state's buffer. -/
theorem phaseFollowsTheTransitionTable : Obligations.PhaseFollowsTheTransitionTable := by
  intro s b ss es hi
  refine ⟨fun hempty => ?first, fun b0 L hb hw => ?second, fun L hacc hl => ?later,
    fun hacc => expLen_of_two_le hi (phase_eq_accum_iff.mp hacc), ⟨_, rfl, rfl, rfl⟩⟩
  case first =>
    have hcleared := cleared_of_buf_nil hi (phase_eq_empty_iff.mp hempty)
    exact ⟨_, firstByteStartsAFrame s b ss es hcleared, rfl, rfl, rfl⟩
  case second =>
    obtain ⟨hlonger, hatOnce⟩ := secondByteLatchesTheLength s b0 b ss es L hi hb hw
    exact ⟨by rw [State.phase, hb], fun h2 => ⟨_, hatOnce h2, rfl, rfl⟩,
      fun h3 => ⟨_, hlonger h3, rfl, rfl, rfl⟩⟩
  case later =>
    have h2 : 2 ≤ s.buf.length := phase_eq_accum_iff.mp hacc
    obtain ⟨start, hs⟩ := tsStart_of_buf_ne_nil hi (List.ne_nil_of_length_pos (by omega))
    have hcompletes (hlen : s.buf.length + 1 = L.toNat) : ∃ t, exec (.feed b ss es) s = .next t ∧
        t.phase = .empty ∧ t.ret = .events (decodePass { bytes := s.buf ++ [b], start := start, stop := es }) := by
      obtain ⟨_, rfl, hx⟩ := byteAtTheLengthCompletesTheFrame s b ss es start L hi hl hs hlen
      exact ⟨_, hx, rfl, rfl⟩
    refine ⟨hi.lengthNotReached L hl, fun hlt => ?below, fun hlen hshort => ?short, fun hlen hlong => ?whole⟩
    case below =>
      refine ⟨_, byteBelowTheLengthIsStored s b ss es L hi hl hlt, phase_eq_accum_iff.mpr ?_, rfl⟩
      rw [List.length_append]
      omega
    case short =>
      obtain ⟨t, hx, hphase, hret⟩ := hcompletes hlen
      rw [decodePass_short (by simpa [hlen] using hshort)] at hret
      exact ⟨t, hx, hphase, hret⟩
    case whole =>
      obtain ⟨t, hx, hphase, hret⟩ := hcompletes hlen
      refine ⟨t, hx, hphase, ?_⟩
      rw [hret]
      exact decodePass_length (by simpa [hlen] using hlong)

end Sys2Proof.Machine
end

section
/-! Reassembly (R71, R77): a run of byte events from a cleared state holds the events until the length in
their first two bytes is reached, and the byte that reaches it makes one decode pass of them all. -/

namespace Sys2Proof.Machine

open Sys2Proof.Claims

/-! ### The state that holds byte events -/

/-- `s` with the byte events `evs` taken into the assembler and held there, `rest` still to come. -/
def State.holding (s : State) (evs : List ByteEvent) (rest : List Request) : State :=
  { s with
    buf := bytesOf evs, expLen := lengthPrefix (bytesOf evs), tsStart := evs.head?.map fun e => e.2.1
    input := rest, ret := if evs = [] then s.ret else .events [] }

/-- The length that the byte events carry in their first two bytes, once these are in, is not reached. -/
def Pending (evs : List ByteEvent) : Prop :=
  ∀ L, lengthPrefix (bytesOf evs) = some L → evs.length < L.toNat

@[simp] theorem bytesOf_length (evs : List ByteEvent) : (bytesOf evs).length = evs.length := List.length_map _

theorem bytesOf_append (evs more : List ByteEvent) : bytesOf (evs ++ more) = bytesOf evs ++ bytesOf more :=
  List.map_append

theorem bytesOf_concat (evs : List ByteEvent) (e : ByteEvent) : bytesOf (evs ++ [e]) = bytesOf evs ++ [e.1] :=
  bytesOf_append evs [e]

theorem feeds_append (evs more : List ByteEvent) : feeds (evs ++ more) = feeds evs ++ feeds more := List.map_append

/-- Byte events that carry a length are two at least. -/
theorem two_le_length_of_prefix {evs : List ByteEvent} {L : Word} (h : lengthPrefix (bytesOf evs) = some L) :
    2 ≤ evs.length := by
  rw [← bytesOf_length]
  refine Nat.not_lt.mp fun hlt => ?_
  rw [(lengthPrefix_eq_none_iff _).mpr hlt] at h
  cases h

/-- With no byte event taken the state is the cleared one. -/
theorem holding_nil {s : State} (h : Cleared s) {rest : List Request} (hin : s.input = rest) :
    s.holding [] rest = s := by
  obtain ⟨hbuf, hexp, hts⟩ := h
  exact State.eq_of_fields hbuf.symm hexp.symm hts.symm hin.symm rfl rfl

theorem holding_tsStart {s : State} {evs : List ByteEvent} {rest : List Request} {first : ByteEvent}
    (h : evs.head? = some first) : (s.holding evs rest).tsStart = some first.2.1 :=
  congrArg (Option.map fun e : ByteEvent => e.2.1) h

/-- A length latched from the first bytes is not changed by any later ones (R68). -/
theorem lengthPrefix_append_of_some {m : Memory} {L : Word} (h : lengthPrefix m = some L) (later : Memory) :
    lengthPrefix (m ++ later) = some L := by
  match m, h with
  | _ :: _ :: _, h => exact h

theorem Pending.of_append {evs more : List ByteEvent} (h : Pending (evs ++ more)) : Pending evs := by
  intro L hL
  have hlt := h L (by rw [bytesOf_append]; exact lengthPrefix_append_of_some hL _)
  rw [List.length_append] at hlt
  omega

/-- Held byte events meet the invariants of R18 as long as their length is not reached. -/
theorem holding_inv (s : State) {evs : List ByteEvent} (rest : List Request) (h : Pending evs) :
    AssemblyInv (s.holding evs rest) where
  startUnset := by simp [State.holding, bytesOf]
  lengthUnset := lengthPrefix_eq_none_iff (bytesOf evs)
  lengthIsPrefix := fun _ hL => hL
  lengthNotReached := fun L hL => by simpa [State.holding] using h L hL

/-! ### Runs -/

/-- One byte event more is held, as long as the length is not reached. -/
theorem step_holding (s : State) {evs : List ByteEvent} {e : ByteEvent} (more : List ByteEvent) (rest : List Request)
    (hpend : Pending (evs ++ [e])) :
    step (s.holding evs (feeds (e :: more) ++ rest)) = .next (s.holding (evs ++ [e]) (feeds more ++ rest)) := by
  have hlt : ∀ L, lengthPrefix (bytesOf evs ++ [e.1]) = some L → (bytesOf evs).length + 1 < L.toNat := by
    intro L hL
    rw [← bytesOf_concat] at hL
    simpa only [bytesOf_length, List.length_append, List.length_singleton] using hpend L hL
  have hstep := step_feed_unfinished (holding_inv s (feeds (e :: more) ++ rest) hpend.of_append) rfl hlt
  refine hstep.trans (congrArg Host.Outcome.next (State.eq_of_fields ?buf ?expLen ?tsStart rfl rfl ?ret))
  case buf => exact (bytesOf_concat evs e).symm
  case expLen => exact congrArg lengthPrefix (bytesOf_concat evs e).symm
  case tsStart => cases evs <;> rfl
  case ret => exact (if_neg (List.append_ne_nil_of_right_ne_nil evs (List.cons_ne_nil e []))).symm

/-- From a state that holds some, byte events that do not reach their length are taken one a step, and held. -/
theorem run_from_holding (s : State) (evs more : List ByteEvent) (rest : List Request)
    (hpend : Pending (evs ++ more)) :
    Host.Core.run Sys2Proof.core more.length (s.holding evs (feeds more ++ rest)) =
      .next (s.holding (evs ++ more) rest) := by
  induction more generalizing evs with
  | nil => rw [List.append_nil]; rfl
  | cons e more ih =>
    rw [List.append_cons] at hpend ⊢
    exact (run_succ _ _ _ (step_holding s more rest hpend.of_append)).trans (ih (evs ++ [e]) hpend)

/-- From a cleared state, with none held yet. -/
theorem run_holding {s : State} (hs : Cleared s) (evs : List ByteEvent) (rest : List Request) (hpend : Pending evs)
    (hin : s.input = feeds evs ++ rest) :
    Host.Core.run Sys2Proof.core evs.length s = .next (s.holding evs rest) := by
  have h := run_from_holding s [] evs rest hpend
  rw [holding_nil hs hin] at h
  exact h

/-- Settles O23: fewer byte events than `max 2 L` are held. -/
theorem anUnfinishedFrameEmitsNothing : Obligations.AnUnfinishedFrameEmitsNothing := by
  intro s evs rest first hs hin hfirst hfew
  have hpend : Pending evs := fun L hL => by
    have hlt := hfew L (lengthPrefix_eq_some_iff.mp hL)
    have h2 := two_le_length_of_prefix hL
    omega
  have hne : evs ≠ [] := fun h => by simp [h] at hfirst
  exact ⟨_, run_holding hs evs rest hpend hin, rfl, holding_tsStart hfirst, rfl, rfl, rfl, if_neg hne⟩

/-- All byte events of a frame but the last are pending. -/
theorem pending_of_length {evs : List ByteEvent} {e : ByteEvent} {L : Word}
    (hp : lengthPrefix (bytesOf (evs ++ [e])) = some L) (hlen : evs.length + 1 = max 2 L.toNat) : Pending evs := by
  intro L' hL'
  rw [bytesOf_concat, lengthPrefix_mono e.1 hL'] at hp
  cases hp
  have h2 := two_le_length_of_prefix hL'
  omega

/-- Exactly `max 2 L` byte events end in the cleared state, with one pass over them. -/
theorem run_whole_frame {s : State} (hs : Cleared s) {evs : List ByteEvent} {e first : ByteEvent} {L : Word}
    {rest : List Request} (hin : s.input = feeds (evs ++ [e]) ++ rest)
    (hp : lengthPrefix (bytesOf (evs ++ [e])) = some L) (hlen : evs.length + 1 = max 2 L.toNat)
    (hfirst : evs.head? = some first) :
    Host.Core.run Sys2Proof.core (evs.length + 1) s = .next (State.deliver { s with input := rest }
      (decodePass { bytes := bytesOf (evs ++ [e]), start := first.2.1, stop := e.2.2 })) := by
  have hin' : s.input = feeds evs ++ (feeds [e] ++ rest) := by rw [hin, feeds_append, List.append_assoc]
  have hpend := pending_of_length hp hlen
  have hreached : L.toNat ≤ (bytesOf evs).length + 1 := by rw [bytesOf_length]; omega
  rw [bytesOf_concat] at hp ⊢
  have hstep := step_feed_completing (holding_inv s (feeds [e] ++ rest) hpend) rfl (holding_tsStart hfirst) hp hreached
  rw [run_add _ _ _ _ (run_holding hs evs _ hpend hin'), run_succ _ _ _ hstep]
  obtain ⟨hbuf, hexp, hts⟩ := hs
  exact congrArg Host.Outcome.next (State.eq_of_fields hbuf.symm hexp.symm hts.symm rfl rfl rfl)

/-- Settles O22: the last byte event completes the frame that the others hold. -/
theorem aWholeFrameIsDecodedInOnePass : Obligations.AWholeFrameIsDecodedInOnePass := by
  intro s evs rest L first last hs hin hw hlen hfirst hlast
  obtain ⟨init, rfl⟩ := List.getLast?_eq_some_iff.mp hlast
  have hp : lengthPrefix (bytesOf (init ++ [last])) = some L := lengthPrefix_eq_some_iff.mpr hw
  rw [List.length_append, List.length_singleton] at hlen ⊢
  have hfirst' : init.head? = some first := by
    cases init with
    | nil => rw [List.length_nil] at hlen; omega
    | cons _ _ => exact hfirst
  refine ⟨_, rfl, run_whole_frame hs hin hp hlen hfirst', ?_⟩
  rw [eventsFrom_decode, decodePass_length_eq, bytesOf_length, List.length_append, List.length_singleton, hlen]
  congr 1
  rw [eq_iff_iff]
  omega

/-- Settles O24: the first `max 2 L` of the byte events are a whole frame, and a 16-bit length is at most 65535. -/
theorem aFrameCompletesWithin65535Bytes : Obligations.AFrameCompletesWithin65535Bytes := by
  intro s evs rest hs hin hlen
  obtain ⟨L, hL⟩ : ∃ L, lengthPrefix (bytesOf evs) = some L :=
    Option.ne_none_iff_exists'.mp fun hn => by
      have := (lengthPrefix_eq_none_iff _).mp hn
      rw [bytesOf_length] at this
      omega
  have hLlt := L.isLt
  obtain ⟨n, hn⟩ : ∃ n, n = max 2 L.toNat := ⟨_, rfl⟩
  have hlen' : (evs.take n).length = n := by rw [List.length_take]; omega
  have hne : evs.take n ≠ [] := List.ne_nil_of_length_pos (by omega)
  have hin' : s.input = feeds (evs.take n) ++ (feeds (evs.drop n) ++ rest) := by
    rw [← List.append_assoc, ← feeds_append, List.take_append_drop, hin]
  have hp : lengthPrefix (bytesOf (evs.take n)) = some L := by
    rw [bytesOf, List.map_take, lengthPrefix_take (by omega)]
    exact hL
  obtain ⟨_, _, hrun, _⟩ := aWholeFrameIsDecodedInOnePass s (evs.take n) _ L _ _ hs hin'
    (lengthPrefix_eq_some_iff.mp hp) (hlen'.trans hn) (List.head?_eq_some_head hne) (List.getLast?_eq_some_getLast hne)
  rw [hlen'] at hrun
  exact ⟨n, _, by omega, by omega, hrun, hs⟩

end Sys2Proof.Machine
end

section
/-! The checksum (R81 to R87). The fold is two byte lanes, and a frame is valid exactly when both lanes of its 114
bytes XOR to zero: so a single flipped bit is seen, and a rotation is not. -/

namespace Sys2Proof.Machine

open Sys2Proof.Claims

/-! ### The byte lanes -/

theorem xorAll_append (bs cs : List Byte) : xorAll (bs ++ cs) = xorAll bs ^^^ xorAll cs := by
  show (bs ++ cs).foldl (· ^^^ ·) 0 = _
  rw [List.foldl_append, xorFold_start]
  rfl

theorem xorAll_cons (b : Byte) (bs : List Byte) : xorAll (b :: bs) = b ^^^ xorAll bs :=
  xorBytes_cons b bs

/-- The second part of a range keeps its lanes when the first part has even length, and exchanges them otherwise. -/
theorem lane_append {parity : Nat} (hp : parity < 2) (bs cs : List Byte) :
    lane parity (bs ++ cs) = lane parity bs ++ lane ((parity + bs.length) % 2) cs := by
  unfold lane
  rw [List.zipIdx_append, List.filter_append, List.map_append, List.zipIdx_eq_map_add (i := 0 + bs.length),
    List.filter_map, List.map_map]
  congr 2
  refine List.filter_congr fun p _ => ?_
  rw [Bool.eq_iff_iff]
  simp only [Function.comp, beq_iff_eq]
  omega

theorem lane_zero_cons (b : Byte) (bs : List Byte) : lane 0 (b :: bs) = b :: lane 1 bs := by
  rw [← List.singleton_append, lane_append Nat.two_pos, List.length_singleton]
  rfl

theorem lane_one_cons (b : Byte) (bs : List Byte) : lane 1 (b :: bs) = lane 0 bs := by
  rw [← List.singleton_append, lane_append Nat.one_lt_two, List.length_singleton]
  rfl

theorem lane_zero_flattenPairs (ps : List (Byte × Byte)) : lane 0 (flattenPairs ps) = ps.map Prod.fst := by
  induction ps with
  | nil => rfl
  | cons p ps ih => rw [flattenPairs, lane_zero_cons, lane_one_cons, ih, List.map_cons]

theorem lane_one_flattenPairs (ps : List (Byte × Byte)) : lane 1 (flattenPairs ps) = ps.map Prod.snd := by
  induction ps with
  | nil => rfl
  | cons p ps ih => rw [flattenPairs, lane_one_cons, lane_zero_cons, ih, List.map_cons]

theorem chkCompute_concat (ps : List (Byte × Byte)) (w : Word) :
    chkCompute (ps ++ [(char1 w, char2 w)]) = chkCompute ps ^^^ w := by
  rw [chkCompute_append, chkCompute_cons, wordOfBytes_chars, chkCompute_nil, BitVec.xor_zero]

/-- The fold's two bytes are the XORs of the two lanes (R84). -/
theorem chkCompute_eq_lanes (ps : List (Byte × Byte)) :
    chkCompute ps = wordOfBytes (xorAll (lane 0 (flattenPairs ps))) (xorAll (lane 1 (flattenPairs ps))) := by
  rw [lane_zero_flattenPairs, lane_one_flattenPairs]
  exact chkCompute_lanes ps

/-- Settles O44: the low and the high byte of the word that the two lanes make. -/
theorem checksumSplitsIntoByteLanes : Obligations.ChecksumSplitsIntoByteLanes := by
  intro ps
  rw [chkCompute_eq_lanes]
  exact ⟨char1_wordOfBytes _ _, char2_wordOfBytes _ _⟩

/-- Settles O43: the fold of one word more, and of any order of the words. -/
theorem checksumIsTheXorOfTheWords : Obligations.ChecksumIsTheXorOfTheWords := by
  refine ⟨fun ps s => rfl, chkCompute_nil, fun lo hi w ps hw => ?_, fun ps qs => chkCompute_perm⟩
  have hword : wordAt [lo, hi] 0 = some w := wordAt_eq_some_iff.mpr hw
  cases hword
  exact chkCompute_cons (lo, hi) ps

/-! ### CHK_VALIDATE -/

theorem pairUp_of_flattenPairs {ps : List (Byte × Byte)} {m : List Byte} (h : flattenPairs ps = m) :
    pairUp m = some ps := by
  rw [← h, pairUp_flattenPairs]

theorem exec_chkValidate_of_some {m : List Byte} {r : ChecksumResult} (h : chkValidate m = some r) (s : State) :
    exec (.chkValidate m) s = .next (s.answer (.checksum r)) := by
  show execChkValidate m s = _
  rw [execChkValidate, h]

theorem exec_chkValidate_of_none {m : List Byte} (h : chkValidate m = none) (s : State) :
    exec (.chkValidate m) s = .refused .operandOutsideDomain := by
  show execChkValidate m s = _
  rw [execChkValidate, h]

/-- Settles O45: the pairs of the first 112 bytes and word 56 are what CHK_VALIDATE reads. -/
theorem validateComparesTheFoldWithWord56 : Obligations.ValidateComparesTheFoldWithWord56 := by
  intro m ps received s _ hps hw
  exact exec_chkValidate_of_some (chkValidate_eq (pairUp_of_flattenPairs hps) (wordAt_eq_some_iff.mpr hw)) s

/-- Settles O46: a shorter range has no word 56. -/
theorem validateStopsOutsideItsDomain : Obligations.ValidateStopsOutsideItsDomain :=
  fun _ s hm => exec_chkValidate_of_none (chkValidate_eq_none hm) s

/-! ### Validity -/

theorem checksumMatches_iff {m : List Byte} {ps : List (Byte × Byte)} {received : Word}
    (hps : pairUp (m.take 112) = some ps) (hw : wordAt m 56 = some received) :
    ChecksumMatches m ↔ chkCompute ps = received := by
  simp [ChecksumMatches, chkValidate_eq hps hw]

theorem le_length_of_checksumMatches {m : List Byte} (h : ChecksumMatches m) : 114 ≤ m.length := by
  obtain ⟨r, hr, _⟩ := h
  refine Nat.not_lt.mp fun hlt => ?_
  rw [chkValidate_eq_none hlt] at hr
  cases hr

theorem checksumMatches_take {m : List Byte} : ChecksumMatches (m.take 114) ↔ ChecksumMatches m := by
  rw [ChecksumMatches, chkValidate_take, ChecksumMatches]

theorem take_add_two_of_wordAt {m : List Byte} {i : Nat} {w : Word} (h : wordAt m i = some w) :
    m.take (2 * i + 2) = m.take (2 * i) ++ flattenPairs [(char1 w, char2 w)] := by
  obtain ⟨hlo, hhi⟩ := wordAt_eq_some_iff.mp h
  rw [List.take_add_one, List.take_add_one, hlo, hhi, List.append_assoc]
  rfl

/-- The zero-residue form (R85): the fold of all 57 words is the fold of the first 56 with word 56 XORed in. -/
theorem checksumMatches_iff_residue {m : List Byte} {ps : List (Byte × Byte)} (hm : 114 ≤ m.length)
    (hps : flattenPairs ps = m.take 114) : ChecksumMatches m ↔ chkCompute ps = 0 := by
  obtain ⟨qs, hqs⟩ := pairUp_chkRange (m := m) (by omega)
  obtain ⟨received, hw⟩ := wordAt_isSome (m := m) (i := 56) (by omega)
  have hsplit : ps = qs ++ [(char1 received, char2 received)] := by
    refine Option.some.inj ?_
    rw [← pairUp_flattenPairs ps, hps, take_add_two_of_wordAt hw, ← flattenPairs_of_pairUp _ qs hqs,
      ← flattenPairs_append, pairUp_flattenPairs]
  rw [checksumMatches_iff hqs hw, hsplit, chkCompute_concat]
  exact BitVec.xor_eq_zero_iff.symm

/-- Settles O47, by the zero-residue form. -/
theorem zeroResidueMeansValid : Obligations.ZeroResidueMeansValid :=
  fun _ _ => checksumMatches_iff_residue

theorem wordOfBytes_eq_zero_iff {lo hi : Byte} : wordOfBytes lo hi = 0 ↔ lo = 0 ∧ hi = 0 := by
  refine ⟨fun h => ⟨?_, ?_⟩, fun ⟨hlo, hhi⟩ => by rw [hlo, hhi]; rfl⟩
  · rw [← char1_wordOfBytes lo hi, h]; rfl
  · rw [← char2_wordOfBytes lo hi, h]; rfl

/-- A range of 114 bytes is a valid frame exactly when each of its two lanes XORs to zero (R84, R85). -/
theorem checksumMatches_iff_lanes {m : List Byte} (hm : m.length = 114) :
    ChecksumMatches m ↔ ∀ parity < 2, xorAll (lane parity m) = 0 := by
  obtain ⟨ps, hps⟩ := Option.isSome_iff_exists.mp ((pairUp_isSome_iff m).mpr (by omega))
  have hflat : flattenPairs ps = m := flattenPairs_of_pairUp m ps hps
  rw [checksumMatches_iff_residue (ps := ps) (by omega) (by rw [List.take_of_length_le (by omega), hflat]),
    chkCompute_eq_lanes, hflat, wordOfBytes_eq_zero_iff, Nat.forall_lt_succ_right, Nat.forall_lt_succ_right]
  simp

/-! ### What a flip and a rotation do to a lane -/

theorem flipBit_length (m : List Byte) (k j : Nat) : (flipBit m k j).length = m.length := List.length_modify _ _ _

theorem take_flipBit (m : List Byte) (n k j : Nat) : (flipBit m k j).take n = flipBit (m.take n) k j :=
  List.take_modify _ _ _ _

/-- A flipped bit of byte `k` is flipped in the XOR of that byte's lane. -/
theorem xorAll_lane_flipBit {m : List Byte} {k : Nat} (j : Nat) (hk : k < m.length) :
    xorAll (lane (k % 2) (flipBit m k j)) = xorAll (lane (k % 2) m) ^^^ BitVec.twoPow 8 j := by
  have hlane : ∀ b : Byte, xorAll (lane (k % 2) (m.take k ++ b :: m.drop (k + 1))) =
      xorAll (lane (k % 2) (m.take k)) ^^^ xorAll (lane 1 (m.drop (k + 1))) ^^^ b := by
    intro b
    have hpar : (k % 2 + (m.take k).length) % 2 = 0 := by rw [List.length_take]; omega
    rw [lane_append (Nat.mod_lt k Nat.two_pos), hpar, lane_zero_cons, xorAll_append, xorAll_cons, BitVec.xor_comm b,
      BitVec.xor_assoc]
  have hm : m = m.take k ++ m[k] :: m.drop (k + 1) := by
    rw [List.getElem_cons_drop, List.take_append_drop]
  rw [flipBit, List.modify_eq_take_cons_drop hk, hlane, ← BitVec.xor_assoc, ← hlane, ← hm]

theorem twoPow_ne_zero {j : Nat} (hj : j < 8) : BitVec.twoPow 8 j ≠ 0 := by
  revert j; decide

theorem not_checksumMatches_flipBit {m : List Byte} {k j : Nat} (hm : m.length = 114) (h : ChecksumMatches m)
    (hk : k < 114) (hj : j < 8) : ¬ ChecksumMatches (flipBit m k j) := by
  intro hflip
  have hpar : k % 2 < 2 := Nat.mod_lt k Nat.two_pos
  have h0 := (checksumMatches_iff_lanes hm).mp h _ hpar
  have h1 := (checksumMatches_iff_lanes ((flipBit_length m k j).trans hm)).mp hflip _ hpar
  rw [xorAll_lane_flipBit j (by omega), h0] at h1
  exact twoPow_ne_zero hj (BitVec.zero_xor.symm.trans h1)

/-- A frame that ends in the fold of its first 56 words is valid (R86 (b)). -/
theorem checksumMatches_append_fold {ps : List (Byte × Byte)} (hps : ps.length = 56) :
    ChecksumMatches (flattenPairs ps ++ flattenPairs [(char1 (chkCompute ps), char2 (chkCompute ps))]) := by
  rw [← flattenPairs_append]
  have hlen : (flattenPairs (ps ++ [(char1 (chkCompute ps), char2 (chkCompute ps))])).length = 114 := by
    rw [flattenPairs_length, List.length_append, hps]; rfl
  rw [checksumMatches_iff_residue (Nat.le_of_eq hlen.symm) (List.take_of_length_le (Nat.le_of_eq hlen)).symm,
    chkCompute_concat]
  exact BitVec.xor_self

/-- Settles O48: bytes 0 to 113 of any valid frame are a valid frame of 114 bytes, and the flip lies in them. -/
theorem singleBitFlipsAreDetected : Obligations.SingleBitFlipsAreDetected := by
  refine ⟨fun ps hps => ⟨BitVec.xor_self, checksumMatches_append_fold hps⟩, fun m k j h hk hj hflip => ?_⟩
  have hlen : (m.take 114).length = 114 := List.length_take_of_le (le_length_of_checksumMatches h)
  rw [← checksumMatches_take, take_flipBit] at hflip
  exact not_checksumMatches_flipBit hlen (checksumMatches_take.mpr h) hk hj hflip

/-- Exchanging the two parts of a range of even length keeps the lanes' XORs or exchanges them. -/
theorem xorAll_lane_append_comm {parity : Nat} (hp : parity < 2) {bs cs : List Byte}
    (heven : (bs.length + cs.length) % 2 = 0) :
    xorAll (lane parity (bs ++ cs)) = xorAll (lane ((parity + bs.length) % 2) (cs ++ bs)) := by
  have hback : ((parity + bs.length) % 2 + cs.length) % 2 = parity := by omega
  rw [lane_append hp, lane_append (Nat.mod_lt _ Nat.two_pos), hback, xorAll_append, xorAll_append, BitVec.xor_comm]

/-- Settles O49: both lanes of the rotated frame are lanes of the frame, so both XOR to zero. -/
theorem rotatedFramesStayValid : Obligations.RotatedFramesStayValid := by
  intro m k hm _ h
  have hlen : (m.drop k).length + (m.take k).length = 114 := by
    rw [List.length_drop, List.length_take]; omega
  rw [checksumMatches_iff_lanes (List.length_append.trans hlen)]
  intro parity hp
  rw [xorAll_lane_append_comm hp (by rw [hlen]), List.take_append_drop]
  exact (checksumMatches_iff_lanes hm).mp h _ (Nat.mod_lt _ Nat.two_pos)

end Sys2Proof.Machine
end

section
/-! The float codec (R89, R92, R95): a pattern is its two words, the high one above the low one, and the four bytes of
the two words in that order. -/

namespace Sys2Proof.Machine

theorem exec_f32Decode (lo hi : Word) (s : State) :
    exec (.f32Decode lo hi) s = .next { s with ret := .pattern (f32Decode lo hi) } := rfl

@[simp] theorem f32Split_f32Decode (lo hi : Word) : f32Split (f32Decode lo hi) = (lo, hi) :=
  Prod.ext BitVec.extractLsb'_append_eq_right BitVec.extractLsb'_append_eq_left

@[simp] theorem f32Decode_f32Split (p : Pattern) : f32Decode (f32Split p).1 (f32Split p).2 = p :=
  calc f32Decode (f32Split p).1 (f32Split p).2
    _ = p.extractLsb' 0 32 := BitVec.extractLsb'_append_extractLsb'_eq_extractLsb' rfl
    _ = p := BitVec.extractLsb'_eq_self

/-- Bytes 0 and 1 are `word_lo` (R95). -/
theorem wordAt_zero_f32Bytes (p : Pattern) : wordAt (f32Bytes p) 0 = some (f32Split p).1 :=
  congrArg some (BitVec.extractLsb'_append_extractLsb'_eq_extractLsb' rfl)

/-- Bytes 2 and 3 are `word_hi` (R95). -/
theorem wordAt_one_f32Bytes (p : Pattern) : wordAt (f32Bytes p) 1 = some (f32Split p).2 :=
  congrArg some (BitVec.extractLsb'_append_extractLsb'_eq_extractLsb' rfl)

theorem floatAt_f32Bytes (p : Pattern) : floatAt (f32Bytes p) 0 = some p := by
  rw [floatAt_eq (wordAt_zero_f32Bytes p) (wordAt_one_f32Bytes p), f32Decode_f32Split]

/-- Settles O50: splitting and joining are inverse to each other, and the four-byte read is the float of its words. -/
theorem floatPatternIsHighThenLowWord : Obligations.FloatPatternIsHighThenLowWord := by
  refine ⟨fun lo hi s => ?_, fun p => ⟨f32Decode_f32Split p, ?_⟩⟩
  · obtain ⟨hlo, hhi⟩ := Prod.ext_iff.mp (f32Split_f32Decode lo hi)
    exact ⟨f32Decode lo hi, exec_f32Decode lo hi s, hlo, hhi, f32Split_f32Decode lo hi⟩
  · exact (floatIsAFourByteRead (f32Bytes p) 0 p).mp (floatAt_f32Bytes p)

end Sys2Proof.Machine
end

section
/-! The frame of the instructions (R26, R138): everything but FEED and RESET leaves the assembler alone. -/

namespace Sys2Proof.Machine

open Sys2Proof.Claims

/-- Settles O16: such an instruction delivers events or answers a value, and either touches the sink and the result
only. -/
theorem otherInstructionsLeaveTheAssemblerAlone : Obligations.OtherInstructionsLeaveTheAssemblerAlone := by
  intro i s t hfeed hreset h
  rcases exec_cases h with ⟨b, ss, es, rfl⟩ | rfl | ⟨evs, rfl, _⟩ | ⟨r, rfl, hr⟩
  · exact absurd rfl (hfeed b ss es)
  · exact absurd rfl hreset
  · exact ⟨⟨rfl, rfl, rfl⟩, fun _ => rfl, rfl, rfl⟩
  · have hnone : eventsOf r = [] := by
      cases r with
      | events evs => exact absurd rfl (hr evs)
      | nothing | word | checksum | pattern => rfl
    refine ⟨⟨rfl, rfl, rfl⟩, fun _ => rfl, rfl, ?_⟩
    rw [State.answer_sink, State.answer_ret, hnone, List.append_nil]

end Sys2Proof.Machine
end

section
/-! The rows with source words (R106 to R135), read off the field table: a row emits the payload that its kind makes of
its own words, whatever these are. -/

namespace Sys2Proof.Machine

open Sys2Proof.Claims

/-! ### Words and floats from what stands in the frame -/

theorem wordAt_of_wordIs {m : Memory} {i : Nat} {w : Word} (h : WordIs m i w) : wordAt m i = some w :=
  wordAt_eq_some_iff.mpr h

theorem wordAt_of_bytes {m : Memory} {i : Nat} {lo hi : Byte} (hlo : m[2 * i]? = some lo)
    (hhi : m[2 * i + 1]? = some hi) : wordAt m i = some (wordOfBytes lo hi) := by
  rw [wordAt_eq_some_iff, char1_wordOfBytes, char2_wordOfBytes]
  exact ⟨hlo, hhi⟩

/-- The halves of a pattern stand in words `i` and `i + 1`, the low one first (R90, R94). -/
abbrev HalvesAt (m : Memory) (i : Nat) (p : Pattern) : Prop :=
  WordIs m i (p.extractLsb' 0 16) ∧ WordIs m (i + 1) (p.extractLsb' 16 16)

theorem floatAt_of_halvesAt {m : Memory} {i : Nat} {p : Pattern} (h : HalvesAt m i p) : floatAt m i = some p := by
  obtain ⟨hlo, hhi⟩ := h
  rw [floatAt_eq (wordAt_of_wordIs hlo) (wordAt_of_wordIs hhi)]
  exact congrArg some (f32Decode_f32Split p)

/-- A SCALED(k) word stands for its `10^k`-th part (R59). -/
theorem scaledValue_mul_pow (k : Nat) (w : Word) : scaledValue k w * (10 ^ k : Nat) = w.toNat := by
  have hne : ((10 ^ k : Nat) : Rat) ≠ 0 := fun h =>
    Nat.ne_of_gt (Nat.pow_pos (by decide)) (Rat.natCast_eq_zero_iff.mp h)
  rw [scaledValue, Rat.mkRat_eq_div, Rat.div_mul_cancel hne, Rat.intCast_natCast]

/-! ### A row and its kind -/

section
variable (id : FieldId) {f : Frame} {a n : Nat} (hf : 114 ≤ f.bytes.length) (hid : fieldWords id = some (a, n))
include hf hid

/-- Past the guard a row emits what its kind makes of its words. -/
theorem emits_of_payloadAt {k : Kind} {p : Payload} (hk : fieldKind id = some k)
    (hp : k.payloadAt f.bytes a = some p) : Emits (Instr.ofRow id f) f id p := by
  obtain ⟨k', hrow⟩ := followsTable_of_fieldWords f hid
  obtain rfl : k' = k := Option.some.inj (hrow.kind.symm.trans hk)
  exact emits_of_payload hf hrow.meaning hp

theorem emits_u16 {w : Word} (hk : fieldKind id = some .u16) (hw : WordIs f.bytes a w) :
    Emits (Instr.ofRow id f) f id (.u16 w) :=
  emits_of_payloadAt id hf hid hk (u16Payload_eq (wordAt_of_wordIs hw))

theorem emits_scaled {k : Nat} {w : Word} (hk : fieldKind id = some (.scaled k)) (hw : WordIs f.bytes a w) :
    Emits (Instr.ofRow id f) f id (.scaled k w) :=
  emits_of_payloadAt id hf hid hk (scaledPayload_eq (wordAt_of_wordIs hw))

theorem emits_ascii2 {c1 c2 : Byte} (hk : fieldKind id = some .ascii2) (h1 : f.bytes[2 * a]? = some c1)
    (h2 : f.bytes[2 * a + 1]? = some c2) : Emits (Instr.ofRow id f) f id (.ascii2 c1 c2) := by
  have hp := ascii2Payload_eq (wordAt_of_bytes h1 h2)
  rw [char1_wordOfBytes, char2_wordOfBytes] at hp
  exact emits_of_payloadAt id hf hid hk hp

theorem emits_ascii4 {c1 c2 c3 c4 : Byte} (hk : fieldKind id = some .ascii4) (h1 : f.bytes[2 * a]? = some c1)
    (h2 : f.bytes[2 * a + 1]? = some c2) (h3 : f.bytes[2 * (a + 1)]? = some c3)
    (h4 : f.bytes[2 * (a + 1) + 1]? = some c4) : Emits (Instr.ofRow id f) f id (.ascii4 c1 c2 c3 c4) := by
  have hp := ascii4Payload_eq (wordAt_of_bytes h1 h2) (wordAt_of_bytes h3 h4)
  simp only [char1_wordOfBytes, char2_wordOfBytes] at hp
  exact emits_of_payloadAt id hf hid hk hp

theorem emits_f32x3 {x y z : Pattern} (hk : fieldKind id = some .f32x3) (hx : HalvesAt f.bytes a x)
    (hy : HalvesAt f.bytes (a + 2) y) (hz : HalvesAt f.bytes (a + 4) z) :
    Emits (Instr.ofRow id f) f id (.f32x3 x y z) :=
  emits_of_payloadAt id hf hid hk
    (f32x3Payload_eq (floatAt_of_halvesAt hx) (floatAt_of_halvesAt hy) (floatAt_of_halvesAt hz))

end

/-! ### The settled rows -/

/-- Settles O32: the four rows of kind F32X3. -/
theorem floatTripleRowsEmitTheirPatterns : Obligations.FloatTripleRowsEmitTheirPatterns :=
  fun _ _ _ _ hf => ⟨emits_f32x3 .accel hf rfl rfl, emits_f32x3 .gyro hf rfl rfl, emits_f32x3 .linAccel hf rfl rfl,
    emits_f32x3 .rotAccel hf rfl rfl⟩

/-- Settles O27: the eight rows of kind U16. -/
theorem rawIntegerRowsEmitTheirWord : Obligations.RawIntegerRowsEmitTheirWord :=
  fun _ _ hf => ⟨emits_u16 .length hf rfl rfl, emits_u16 .msgType hf rfl rfl, emits_u16 .makoSecondsOn hf rfl rfl,
    emits_u16 .makoUserAction hf rfl rfl, emits_u16 .badChecksumCount hf rfl rfl,
    emits_u16 .goodChecksumCount hf rfl rfl, emits_u16 .waymarkerId hf rfl rfl, emits_u16 .flags hf rfl rfl⟩

/-- Settles O28: the nine rows of kind SCALED(1). -/
theorem tenthsRowsEmitTheirRawWord : Obligations.TenthsRowsEmitTheirRawWord :=
  ⟨scaledValue_mul_pow 1, fun _ _ hf => ⟨emits_scaled .depth hf rfl rfl, emits_scaled .waterTemp hf rfl rfl,
    emits_scaled .enclTemp hf rfl rfl, emits_scaled .enclHumidity hf rfl rfl, emits_scaled .airPressure hf rfl rfl,
    emits_scaled .heading hf rfl rfl, emits_scaled .headingToTarget hf rfl rfl,
    emits_scaled .distanceToTarget hf rfl rfl, emits_scaled .journeyCourse hf rfl rfl⟩⟩

/-- Settles O29: the three rows of kind SCALED(2) and the row of kind SCALED(3). -/
theorem hundredthsAndThousandthsRowsEmitTheirRawWord : Obligations.HundredthsAndThousandthsRowsEmitTheirRawWord :=
  ⟨fun w => ⟨scaledValue_mul_pow 2 w, scaledValue_mul_pow 3 w⟩, fun _ _ hf =>
    ⟨emits_scaled .waterPressure hf rfl rfl, emits_scaled .journeyDistance hf rfl rfl,
      emits_scaled .usbCurrent hf rfl rfl, emits_scaled .usbVoltage hf rfl rfl⟩⟩

/-- Settles O30: the three rows of kind ASCII2 and the row of kind ASCII4. -/
theorem labelRowsEmitTheirBytesInOrder : Obligations.LabelRowsEmitTheirBytesInOrder :=
  fun _ hf => ⟨fun _ _ => emits_ascii2 .displayLabel hf rfl rfl, fun _ _ => emits_ascii2 .waymarkerLabel hf rfl rfl,
    fun _ _ => emits_ascii2 .directionMetric hf rfl rfl, fun _ _ _ _ => emits_ascii4 .targetCode hf rfl rfl⟩

/-- Settles O31: the row of kind U16X6. -/
theorem sensorTimingEmitsSixWordsInOrder : Obligations.SensorTimingEmitsSixWordsInOrder :=
  fun _ _ _ _ _ _ _ hf h0 h1 h2 h3 h4 h5 => emits_of_payloadAt .sensorTiming hf rfl rfl
    (u16x6Payload_eq (wordAt_of_wordIs h0) (wordAt_of_wordIs h1) (wordAt_of_wordIs h2) (wordAt_of_wordIs h3)
      (wordAt_of_wordIs h4) (wordAt_of_wordIs h5))

end Sys2Proof.Machine
end

section
/-! The checksum rows and the summary (R136, R137), and what every row of a pass has in common: it delivers one event of
its own identifier over the frame's time range, or none. -/

namespace Sys2Proof.Machine

open Sys2Proof.Claims

/-! ### The checksum rows as rows with a payload -/

/-- The payload of the checksum row for the outcome `valid`: the two words, when that is the outcome (R136). -/
def outcomePayload (valid : Bool) (m : Memory) : Option Payload :=
  (chkValidate m).bind fun r => if r.isValid = valid then some (.chk r.computed r.received) else none

theorem fieldEvent_none (f : Frame) (id : FieldId) : fieldEvent f id none = [] :=
  ite_self []

theorem evChecksumOk_eq (f : Frame) : evChecksumOk f = fieldEvent f .checksumOk (outcomePayload true f.bytes) := by
  unfold evChecksumOk outcomePayload
  rcases chkValidate f.bytes with _ | ⟨_, _, _ | _⟩
  · exact (fieldEvent_none f _).symm
  · exact (fieldEvent_none f _).symm
  · rfl

theorem evChecksumError_eq (f : Frame) :
    evChecksumError f = fieldEvent f .checksumError (outcomePayload false f.bytes) := by
  unfold evChecksumError outcomePayload
  rcases chkValidate f.bytes with _ | ⟨_, _, _ | _⟩
  · exact (fieldEvent_none f _).symm
  · rfl
  · exact (fieldEvent_none f _).symm

theorem exec_checksumOk (f : Frame) (s : State) :
    exec (.checksumOk f) s = .next (s.deliver (fieldEvent f .checksumOk (outcomePayload true f.bytes))) := by
  rw [← evChecksumOk_eq]
  rfl

theorem exec_checksumError (f : Frame) (s : State) :
    exec (.checksumError f) s = .next (s.deliver (fieldEvent f .checksumError (outcomePayload false f.bytes))) := by
  rw [← evChecksumError_eq]
  rfl

/-- Every row but the reserved one delivers a row's event: the guard and the emission of `fieldEvent`. -/
theorem exec_ofRow {id : FieldId} (hid : id ≠ .reserved31) (f : Frame) :
    ∃ o, ∀ s : State, exec (Instr.ofRow id f) s = .next (s.deliver (fieldEvent f id o)) := by
  cases id
  case reserved31 => exact absurd rfl hid
  case checksumOk => exact ⟨_, exec_checksumOk f⟩
  case checksumError => exact ⟨_, exec_checksumError f⟩
  all_goals exact ⟨_, fun _ => rfl⟩

/-- An instruction that delivers no events emits nothing. -/
theorem emitsNothing_of_deliver {i : Instr} {evs : List FieldEvent}
    (hx : ∀ s : State, exec i s = .next (s.deliver evs)) (hevs : evs = []) : EmitsNothing i := by
  intro s
  rw [hx, hevs, State.deliver, List.append_nil]

/-! ### The checksum rows and the summary -/

section
variable {m : Memory} {ps : List (Byte × Byte)} {received : Word} (hps : flattenPairs ps = m.take 112)
  (hw : WordIs m 56 received)
include hps hw

/-- The ChecksumResult from the pairs of bytes 0 to 111 and word 56 (R83). -/
theorem chkValidate_of_flattenPairs :
    chkValidate m = some ⟨chkCompute ps, received, decide (chkCompute ps = received)⟩ :=
  chkValidate_eq (pairUp_of_flattenPairs hps) (wordAt_of_wordIs hw)

theorem outcomePayload_of_outcome {valid : Bool} (h : decide (chkCompute ps = received) = valid) :
    outcomePayload valid m = some (.chk (chkCompute ps) received) := by
  rw [outcomePayload, chkValidate_of_flattenPairs hps hw]
  exact if_pos h

theorem outcomePayload_of_other_outcome {valid : Bool} (h : decide (chkCompute ps = received) ≠ valid) :
    outcomePayload valid m = none := by
  rw [outcomePayload, chkValidate_of_flattenPairs hps hw]
  exact if_neg h

theorem summaryPayload_eq {len ty : Word} (hlen : WordIs m 0 len) (hty : WordIs m 1 ty) :
    summaryPayload m = some (.sum len ty (decide (chkCompute ps = received))) := by
  simp only [summaryPayload, wordAt_of_wordIs hlen, wordAt_of_wordIs hty, chkValidate_of_flattenPairs hps hw]

end

/-- Settles O33: the row of the outcome has the two words as its payload, the other row has none. -/
theorem checksumRowsEmitExactlyOneOutcome : Obligations.ChecksumRowsEmitExactlyOneOutcome := by
  intro f ps received hf hps hw
  refine ⟨fun heq => ⟨?_, ?_⟩, fun hne => ⟨?_, ?_⟩⟩
  · exact emits_of_payload hf (exec_checksumOk f) (outcomePayload_of_outcome hps hw (decide_eq_true heq))
  · refine emitsNothing_of_deliver (exec_checksumError f) ?_
    rw [outcomePayload_of_other_outcome hps hw (by simpa using heq), fieldEvent_none]
  · exact emits_of_payload hf (exec_checksumError f) (outcomePayload_of_outcome hps hw (decide_eq_false hne))
  · refine emitsNothing_of_deliver (exec_checksumOk f) ?_
    rw [outcomePayload_of_other_outcome hps hw (by simpa using hne), fieldEvent_none]

/-- Settles O34: the summary's payload is there under either outcome. -/
theorem summaryEmitsLengthTypeAndValidity : Obligations.SummaryEmitsLengthTypeAndValidity :=
  fun _ _ _ _ _ hf hps hlen hty hw => emits_of_payload hf (fun _ => rfl) (summaryPayload_eq hps hw hlen hty)

/-! ### The rows of a pass -/

theorem ne_reserved31_of_mem_passRows {id : FieldId} (h : id ∈ passRows) : id ≠ .reserved31 := by
  rintro rfl
  exact absurd h (by decide)

/-- Settles O36: no row's event passes the guard. -/
theorem rowsAreSilentOnShortFrames : Obligations.RowsAreSilentOnShortFrames := by
  intro f hshort id hid
  obtain ⟨o, hx⟩ := exec_ofRow (ne_reserved31_of_mem_passRows hid) f
  exact emitsNothing_of_deliver hx (fieldEvent_short hshort)

theorem eventsFrom_of_deliver {i : Instr} {s : State} {evs : List FieldEvent} (hx : exec i s = .next (s.deliver evs)) :
    eventsFrom i s = evs := by
  rw [eventsFrom, hx]
  rfl

/-- What a row of a pass returns: one event of its identifier over the frame's time range, or none (R100). -/
theorem eventsFrom_ofRow {id : FieldId} (hid : id ∈ passRows) (f : Frame) :
    ∃ o, ∀ s : State, eventsFrom (Instr.ofRow id f) s = fieldEvent f id o := by
  obtain ⟨o, hx⟩ := exec_ofRow (ne_reserved31_of_mem_passRows hid) f
  exact ⟨o, fun s => eventsFrom_of_deliver (hx s)⟩

/-! ### The pass as its rows -/

/-- The pass is its rows one after another (R97, R101); on a short frame both sides are empty. -/
theorem decodePass_eq_flatMap (f : Frame) (s : State) :
    decodePass f = passRows.flatMap fun id => eventsFrom (Instr.ofRow id f) s := by
  by_cases h : f.bytes.length < 114
  · rw [decodePass_short h, eq_comm, List.flatMap_eq_nil_iff]
    intro id hid
    obtain ⟨o, ho⟩ := eventsFrom_ofRow hid f
    rw [ho, fieldEvent_short h]
  · rw [decodePass, if_neg h]
    simp only [passRows, List.flatMap_cons, List.flatMap_nil, List.append_assoc, List.append_nil]
    rfl

/-- An event of a pass is the one event of some row. -/
theorem exists_row_of_mem_decodePass {f : Frame} {e : FieldEvent} (h : e ∈ decodePass f) (s : State) :
    ∃ id ∈ passRows, e ∈ eventsFrom (Instr.ofRow id f) s ∧
      ∃ p, e = { startTime := f.start, endTime := f.stop, fieldId := id, payload := p } := by
  rw [decodePass_eq_flatMap f s, List.mem_flatMap] at h
  obtain ⟨id, hid, he⟩ := h
  obtain ⟨o, ho⟩ := eventsFrom_ofRow hid f
  obtain ⟨p, _, hp⟩ := fieldEvent_subset (ho s ▸ he)
  exact ⟨id, hid, he, p, hp⟩

/-- Settles O37, by the pass as its rows. -/
theorem decodeRunsItsRowsInOrder : Obligations.DecodeRunsItsRowsInOrder :=
  fun f s => ⟨decodePass f, decodePass_eq_flatMap f s, rfl⟩

/-- Settles O39: every event of the pass is a row's, and the rows copy the frame's two times. -/
theorem everyEventSpansTheWholeFrame : Obligations.EveryEventSpansTheWholeFrame := by
  intro f s e he
  obtain ⟨_, _, _, _, rfl⟩ := exists_row_of_mem_decodePass (eventsFrom_decode f s ▸ he) s
  exact ⟨rfl, rfl⟩

end Sys2Proof.Machine
end

section
/-! The decode pass as a whole (R98 to R103, R106): its guard, its identifiers, what of the frame it reads, and what the
checksum's outcome changes in it. -/

namespace Sys2Proof.Machine

open Sys2Proof.Claims

theorem exec_decode (f : Frame) (s : State) : exec (.decode f) s = .next (s.deliver (decodePass f)) := rfl

/-- Settles O35: below the guard the pass is empty, past it there are 32 events. -/
theorem shortFramesAreSilent : Obligations.ShortFramesAreSilent := by
  refine fun f => ⟨emitsNothing_decode_short, fun hf s => ⟨decodePass f, ?_, exec_decode f s⟩⟩
  exact List.ne_nil_of_length_pos (by rw [decodePass_length hf]; decide)

/-- Settles O40: the pass is a function of the first 114 bytes and the two times. -/
theorem decodeReadsOnlyTheFirst114Bytes : Obligations.DecodeReadsOnlyTheFirst114Bytes := by
  intro f g s hf hg hbytes hstart hstop
  rw [exec_decode, exec_decode, decodePass_congr hf hg hbytes hstart hstop]

/-! ### The identifiers -/

/-- The number of an event's identifier (R50). -/
def FieldEvent.code (e : FieldEvent) : Nat :=
  (FieldId.code e.fieldId).toNat

theorem fieldEvents_map_code (fs fe : Time) (W : Nat → Word) :
    (fieldEvents fs fe W).map FieldEvent.code = (List.range 30).map (· + 1) := rfl

theorem closingEvents_map_code (fs fe : Time) (W : Nat → Word) (r : ChecksumResult) :
    (closingEvents fs fe W r).map FieldEvent.code = [if r.isValid then 32 else 33, 0] := by
  obtain ⟨_, _, _ | _⟩ := r <;> rfl

/-- Settles O38: the identifiers of the pass written out, and their number. -/
theorem decodeEmits32EventsInFixedOrder : Obligations.DecodeEmits32EventsInFixedOrder := by
  intro f s hf
  obtain ⟨W, hW⟩ := exists_words hf
  obtain ⟨r, hr⟩ := chkValidate_isSome hf
  refine ⟨if r.isValid then 32 else 33, ?last, ?codes, decodePass_length hf⟩
  case last => cases r.isValid <;> decide
  case codes =>
    change (decodePass f).map FieldEvent.code = _
    rw [decodePass_eq hf hW hr, List.map_append, fieldEvents_map_code, closingEvents_map_code]

/-! ### The checksum gates nothing -/

/-- An event without its times: its identifier and its payload. -/
def FieldEvent.content (e : FieldEvent) : FieldId × Payload :=
  (e.fieldId, e.payload)

/-- The contents of the 30 field events on words `W`; the times do not matter. -/
def fieldContents (W : Nat → Word) : List (FieldId × Payload) :=
  (fieldEvents 0 0 W).map FieldEvent.content

/-- The contents of the checksum event and the summary for a fold, a received word and the words 0 and 1. -/
def closingContents (computed received len ty : Word) : List (FieldId × Payload) :=
  [(if computed = received then .checksumOk else .checksumError, .chk computed received),
    (.summary, .sum len ty (decide (computed = received)))]

/-- The 30 field events read words 0 to 55 (R106 to R135). -/
theorem fieldEvents_congr {W V : Nat → Word} (h : ∀ i, i < 56 → W i = V i) (fs fe : Time) :
    fieldEvents fs fe W = fieldEvents fs fe V := by
  simp (disch := decide) only [fieldEvents, h]

/-- Bytes 0 to 111 decide the contents of the 30 field events, the fold and the summary's two words; only the received
word, and with it the outcome, stands behind them. -/
theorem decodePass_map_content {f : Frame} {W : Nat → Word} {ps : List (Byte × Byte)} (hf : 114 ≤ f.bytes.length)
    (hW : ∀ i, i < 56 → wordAt (f.bytes.take 112) i = some (W i)) (hps : flattenPairs ps = f.bytes.take 112) :
    ∃ received, WordIs f.bytes 56 received ∧ (decodePass f).map FieldEvent.content =
      fieldContents W ++ closingContents (chkCompute ps) received (W 0) (W 1) := by
  obtain ⟨V, hV⟩ := exists_words hf
  have hVW : ∀ i, i < 56 → V i = W i := fun i hi => Option.some.inj <| by
    rw [← hV i (by omega), ← hW i hi, wordAt_take (by omega)]
  have hw : WordIs f.bytes 56 (V 56) := wordAt_eq_some_iff.mp (hV 56 (by decide))
  refine ⟨V 56, hw, ?_⟩
  rw [decodePass_eq hf hV (chkValidate_of_flattenPairs hps hw), fieldEvents_congr hVW, closingEvents,
    hVW 0 (by decide), hVW 1 (by decide), List.map_append]
  simp only [decide_eq_true_eq]
  rfl

/-- Where the parts of a pass's contents stand: 30 fields, the checksum event, the summary (R101). -/
theorem places_of_contents {cs : List (FieldId × Payload)} {W : Nat → Word} {computed received len ty : Word}
    (h : cs = fieldContents W ++ closingContents computed received len ty) :
    cs.length = 32 ∧ cs.take 30 = fieldContents W ∧
    cs[30]? = some (if computed = received then .checksumOk else .checksumError, .chk computed received) ∧
    cs[31]? = some (.summary, .sum len ty (decide (computed = received))) := by
  subst h
  exact ⟨rfl, rfl, rfl, rfl⟩

/-- Settles O41: bytes 0 to 111, the same in both frames, decide all but the received word and the outcome. -/
theorem checksumGatesNothing : Obligations.ChecksumGatesNothing := by
  intro f g s hf hg hbytes
  obtain ⟨W, hW⟩ := exists_words hf
  have hW' : ∀ i, i < 56 → wordAt (f.bytes.take 112) i = some (W i) := fun i hi => by
    rw [wordAt_take (by omega), hW i (by omega)]
  obtain ⟨ps, hps⟩ := pairUp_chkRange (m := f.bytes) (by omega)
  have hflat : flattenPairs ps = f.bytes.take 112 := flattenPairs_of_pairUp _ _ hps
  obtain ⟨receivedF, hwF, hcontentsF⟩ := decodePass_map_content hf hW' hflat
  obtain ⟨receivedG, hwG, hcontentsG⟩ := decodePass_map_content hg (hbytes ▸ hW') (hbytes ▸ hflat)
  obtain ⟨hlenF, hfieldsF, hchkF, hsumF⟩ := places_of_contents hcontentsF
  obtain ⟨hlenG, hfieldsG, hchkG, hsumG⟩ := places_of_contents hcontentsG
  refine ⟨hfieldsF.trans hfieldsG.symm, chkCompute ps, W 0, W 1, fun h hfg => ?_⟩
  rcases hfg with rfl | rfl
  · exact ⟨hlenF, receivedF, hwF, hchkF, hsumF⟩
  · exact ⟨hlenG, receivedG, hwG, hchkG, hsumG⟩

/-! ### The LENGTH event -/

/-- A LENGTH event of a pass carries word 0, on a frame past the guard (R106). -/
theorem lengthEvent_of_mem_decodePass {f : Frame} {e : FieldEvent} (h : e ∈ decodePass f)
    (hid : e.fieldId = .length) :
    114 ≤ f.bytes.length ∧ ∃ w, wordAt f.bytes 0 = some w ∧ e.payload = .u16 w := by
  have hlen : 114 ≤ f.bytes.length := Nat.not_lt.mp fun hshort => by
    rw [decodePass_short hshort] at h
    exact List.not_mem_nil h
  obtain ⟨id, _, he, p, rfl⟩ := exists_row_of_mem_decodePass h State.reset
  obtain rfl : id = .length := hid
  obtain ⟨w, hw⟩ := wordAt_isSome (m := f.bytes) (i := 0) (by omega)
  have hevents : eventsFrom (.length f) State.reset = fieldEvent f .length (some (.u16 w)) :=
    congrArg (fieldEvent f .length) (u16Payload_eq hw)
  have hmem : _ ∈ eventsFrom (.length f) State.reset := he
  rw [hevents, fieldEvent_eq hlen, List.mem_singleton] at hmem
  exact ⟨hlen, w, hw, congrArg FieldEvent.payload hmem⟩

/-- Settles O42: a frame of 114 bytes has a length latched before its last byte, which it had not reached then. -/
theorem lengthEventReportsTheLatchedLength : Obligations.LengthEventReportsTheLatchedLength := by
  intro s t b ss es e hi h he hid
  rcases execFeed_cases h with ⟨_, start, _, rfl⟩ | ⟨_, rfl⟩
  case inr => exact absurd he List.not_mem_nil
  obtain ⟨hlen, w, hw, hpayload⟩ := lengthEvent_of_mem_decodePass he hid
  rw [State.accumulate_buf] at hlen hw
  rw [List.length_append, List.length_singleton] at hlen
  obtain ⟨L, hL⟩ := expLen_of_two_le hi (by omega)
  have hlt := hi.lengthNotReached L hL
  have hprefix : lengthPrefix (s.buf ++ [b]) = some L := lengthPrefix_append_of_expLen hi hL
  obtain rfl : L = w := Option.some.inj (by rw [← hprefix, lengthPrefix_eq_wordAt, hw])
  exact ⟨L, by rw [accumulate_expLen hi, hprefix], hpayload, by omega⟩

end Sys2Proof.Machine
end

section
/-! The texts of a pass (R141, D24): RENDER has a template for every payload of its identifier's kind, and a pass emits no
other. -/

namespace Sys2Proof.Machine

/-- One template for each identifier with a kind, whatever the packed payload is. -/
theorem render_unpack_isSome (fmt : TextFormats) {id : FieldId} {k : Kind} (h : fieldKind id = some k)
    (b : BitVec Config.payloadBits) : (render fmt id (k.unpack b)).isSome = true := by
  cases id
  case reserved31 => cases h
  all_goals cases h; rfl

/-- Every payload is the reading of its own packing (R53), so `render_unpack_isSome` speaks of all of them. -/
theorem FieldEvent.text_isSome (fmt : TextFormats) {e : FieldEvent} (h : e.wellKinded = true) :
    (e.text fmt).isSome = true := by
  have htext := render_unpack_isSome fmt (of_decide_eq_true h) e.payload.pack
  rwa [unpack_pack] at htext

/-- Settles O54: a pass emits well-kinded events only. -/
theorem everyDecodedEventHasAText : Obligations.EveryDecodedEventHasAText :=
  fun fmt f s _ he => FieldEvent.text_isSome fmt (decodePass_wellKinded (eventsFrom_decode f s ▸ he))

end Sys2Proof.Machine
end

section
/-! Numerals read back (R142 to R144): what each digit character reads as, then DEC, FIX and HEX4. -/

namespace Sys2Proof.Machine

open Sys2Proof.Claims

/-! ### Digit characters -/

theorem toNat_charOfNat {n : Nat} (h : n < 128) : (Char.ofNat n).toNat = n := by
  have hvalid : n.isValidChar := .inl (by omega)
  rw [Char.ofNat, dif_pos hvalid]
  rfl

theorem digitChar_toNat {d : Nat} (h : d < 10) : (digitChar d).toNat = 48 + d :=
  toNat_charOfNat (by omega)

theorem digitChar_isDecimal {d : Nat} (h : d < 10) : IsDecimal (digitChar d) := by
  rw [IsDecimal, digitChar_toNat h]
  omega

theorem eq_zero_of_digitChar_eq {d : Nat} (h : d < 10) (hd : digitChar d = '0') : d = 0 := by
  have hcode : 48 + d = 48 := by rw [← digitChar_toNat h, hd]; rfl
  omega

theorem decimalValue_append_digitChar (ds : List Char) {d : Nat} (h : d < 10) :
    decimalValue (ds ++ [digitChar d]) = 10 * decimalValue ds + d := by
  rw [decimalValue, List.foldl_append, List.foldl_cons, List.foldl_nil, digitChar_toNat h, Nat.add_sub_cancel_left]
  rfl

/-! ### DEC -/

theorem decDigits_of_lt (fuel : Nat) {n : Nat} (h : n < 10) : decDigits fuel n = [digitChar n] := by
  cases fuel with
  | zero => rw [decDigits, Nat.mod_eq_of_lt h]
  | succ fuel => rw [decDigits, if_pos h]

theorem decDigits_of_ge (fuel : Nat) {n : Nat} (h : 10 ≤ n) :
    decDigits (fuel + 1) n = decDigits fuel (n / 10) ++ [digitChar (n % 10)] := by
  rw [decDigits, if_neg (Nat.not_lt.mpr h)]

/-- The induction over a numeral, once for all its properties: one digit, or a numeral of the tenth and one digit more.
The fuel suffices because a tenth of `n` is less than `n`. -/
theorem decDigits_induction {P : Nat → List Char → Prop} (digit : ∀ d < 10, P d [digitChar d])
    (snoc : ∀ n ds, 10 ≤ n → P (n / 10) ds → P n (ds ++ [digitChar (n % 10)])) {fuel n : Nat} (h : n ≤ fuel) :
    P n (decDigits fuel n) := by
  induction fuel generalizing n with
  | zero =>
    rw [decDigits_of_lt 0 (by omega)]
    exact digit n (by omega)
  | succ fuel ih =>
    by_cases hn : n < 10
    · rw [decDigits_of_lt _ hn]
      exact digit n hn
    · rw [decDigits_of_ge _ (by omega)]
      exact snoc n _ (by omega) (ih (by omega))

@[simp] theorem dec_toList (n : Nat) : (dec n).toList = decDigits n n := String.toList_ofList

theorem dec_induction {P : Nat → List Char → Prop} (digit : ∀ d < 10, P d [digitChar d])
    (snoc : ∀ n ds, 10 ≤ n → P (n / 10) ds → P n (ds ++ [digitChar (n % 10)])) (n : Nat) : P n (dec n).toList := by
  rw [dec_toList]
  exact decDigits_induction digit snoc (Nat.le_refl n)

theorem dec_isDecimal (n : Nat) : ∀ c ∈ (dec n).toList, IsDecimal c := by
  refine dec_induction (P := fun _ ds => ∀ c ∈ ds, IsDecimal c) (fun d hd => ?digit) (fun n ds _ ih => ?snoc) n
  case digit => exact List.forall_mem_singleton.mpr (digitChar_isDecimal hd)
  case snoc =>
    exact List.forall_mem_append.mpr ⟨ih, List.forall_mem_singleton.mpr (digitChar_isDecimal (by omega))⟩

theorem decimalValue_dec (n : Nat) : decimalValue (dec n).toList = n := by
  refine dec_induction (P := fun n ds => decimalValue ds = n) (fun d hd => ?digit) (fun n ds _ ih => ?snoc) n
  case digit => simpa [decimalValue] using decimalValue_append_digitChar [] hd
  case snoc => rw [decimalValue_append_digitChar ds (by omega), ih, Nat.div_add_mod]

/-- A numeral has a first digit, and that is 0 only in the numeral of 0: a longer one begins with the numeral of its
tenth, which is not 0. -/
theorem dec_head (n : Nat) : ∃ c, (dec n).toList.head? = some c ∧ (c = '0' → n = 0) := by
  refine dec_induction (P := fun n ds => ∃ c, ds.head? = some c ∧ (c = '0' → n = 0)) (fun d hd => ?digit)
    (fun n ds hn ih => ?snoc) n
  case digit => exact ⟨_, rfl, eq_zero_of_digitChar_eq hd⟩
  case snoc =>
    obtain ⟨c, hc, hzero⟩ := ih
    refine ⟨c, by rw [List.head?_append, hc]; rfl, fun h => ?_⟩
    have := hzero h
    omega

/-- Settles O55, from the three properties of a numeral. -/
theorem decimalNumeralsReadBack : Obligations.DecimalNumeralsReadBack := by
  refine fun n => ⟨dec_isDecimal n, decimalValue_dec n, fun h => ?_⟩
  obtain ⟨c, hc, hzero⟩ := dec_head n
  rw [hzero (Option.some.inj (hc.symm.trans h))]
  rfl

/-! ### FIX -/

theorem padDigits_length (k n : Nat) : (padDigits k n).length = k := by
  induction k generalizing n with
  | zero => rfl
  | succ k ih => rw [padDigits, List.length_append, ih, List.length_singleton]

theorem padDigits_isDecimal (k n : Nat) : ∀ c ∈ padDigits k n, IsDecimal c := by
  induction k generalizing n with
  | zero => exact List.forall_mem_nil _
  | succ k ih =>
    exact List.forall_mem_append.mpr ⟨ih _, List.forall_mem_singleton.mpr (digitChar_isDecimal (by omega))⟩

/-- `k` digits behind a numeral shift its value by `k` places and add their own. -/
theorem decimalValue_append_padDigits (ds : List Char) (k n : Nat) :
    decimalValue (ds ++ padDigits k n) = 10 ^ k * decimalValue ds + n % 10 ^ k := by
  induction k generalizing n with
  | zero => rw [padDigits, List.append_nil, Nat.pow_zero, Nat.one_mul, Nat.mod_one, Nat.add_zero]
  | succ k ih =>
    rw [padDigits, ← List.append_assoc, decimalValue_append_digitChar _ (by omega), ih, Nat.pow_succ', Nat.mod_mul,
      Nat.mul_assoc]
    omega

theorem fix_toList (w k : Nat) :
    (fix w k).toList = (dec (w / 10 ^ k)).toList ++ '.' :: padDigits k (w % 10 ^ k) := by
  simp [fix]

/-- Settles O56: the digits behind the point are the remainder's. -/
theorem fixedPointTextIsTheExactQuotient : Obligations.FixedPointTextIsTheExactQuotient := by
  intro w k _ _
  refine ⟨_, fix_toList w.toNat k, padDigits_length k _, padDigits_isDecimal k _, ?_⟩
  rw [decimalValue_append_padDigits, decimalValue_dec, Nat.mod_mod, Nat.div_add_mod]

/-! ### HEX4 -/

theorem hexChar_toNat (d : BitVec 4) : (hexChar d).toNat = if d.toNat < 10 then 48 + d.toNat else 55 + d.toNat := by
  have := d.isLt
  unfold hexChar
  split
  · exact toNat_charOfNat (by omega)
  · exact toNat_charOfNat (by omega)

theorem hexValue_hexChar (d : BitVec 4) : hexValue (hexChar d) = d.toNat := by
  rw [hexValue, hexChar_toNat]
  by_cases h : d.toNat < 10
  · rw [if_pos h, if_pos (by omega), Nat.add_sub_cancel_left]
  · rw [if_neg h, if_neg (by omega), Nat.add_sub_cancel_left]

/-- A digit character is 0 to 9 or A to F (D20). -/
theorem hexChar_upperCase (d : BitVec 4) :
    IsDecimal (hexChar d) ∨ (65 ≤ (hexChar d).toNat ∧ (hexChar d).toNat ≤ 70) := by
  have := d.isLt
  rw [IsDecimal, hexChar_toNat]
  by_cases h : d.toNat < 10
  · rw [if_pos h]
    omega
  · rw [if_neg h]
    omega

/-- A word is its four digits of four bits. -/
theorem word_toNat_eq_digits (w : Word) :
    (w.extractLsb' 12 4).toNat * 4096 + (w.extractLsb' 8 4).toNat * 256 + (w.extractLsb' 4 4).toNat * 16 +
      (w.extractLsb' 0 4).toNat = w.toNat := by
  have := w.isLt
  simp only [extract_toNat]
  omega

theorem hex4_toList (w : Word) :
    (hex4 w).toList = ['0', 'x', hexChar (w.extractLsb' 12 4), hexChar (w.extractLsb' 8 4),
      hexChar (w.extractLsb' 4 4), hexChar (w.extractLsb' 0 4)] := by
  simp [hex4]

/-- Settles O57, digit by digit. -/
theorem hexNumeralsReadBack : Obligations.HexNumeralsReadBack := by
  refine fun w => ⟨_, _, _, _, hex4_toList w, ?value, ?digits⟩
  case value => simp only [hexValue_hexChar, word_toNat_eq_digits]
  case digits =>
    iterate 4 refine List.forall_mem_cons.mpr ⟨hexChar_upperCase _, ?_⟩
    exact List.forall_mem_nil _

end Sys2Proof.Machine
end

section
/-! Waiting (R193): a machine with nothing presented stands still, and only what a byte source presents reaches the
assembler. -/

namespace Sys2Proof.Machine

open Sys2Proof.Claims

/-- Waiting is a fixed point of the step, so any number of steps waits. -/
theorem run_of_input_nil {s : State} (h : s.input = []) (n : Nat) : Host.Core.run Sys2Proof.core n s = .next s := by
  induction n with
  | zero => rfl
  | succ n ih => rw [run_succ n s s (step_of_input_nil h), ih]

/-- FEED and RESET are read from a source's own requests only (D2, log 3): the encoder gives back the request. -/
theorem decode_ne_feed_reset_of_not_fromSource {r : Request} {i : Instr} (hd : decode r = .ok i)
    (hr : r.fromSource = false) : (∀ b ss es, i ≠ .feed b ss es) ∧ i ≠ .reset := by
  obtain rfl : encode i = r := encode_of_decode hd
  refine ⟨?feed, ?reset⟩
  case feed => rintro b ss es rfl; cases hr
  case reset => rintro rfl; cases hr

/-- Taking the oldest request leaves the three elements, so a step on one that no source presents has its instruction's
frame. -/
theorem step_sameAssembly_of_not_fromSource {s t : State} {r : Request} {rest : List Request}
    (hin : s.input = r :: rest) (hr : r.fromSource = false) (h : step s = .next t) : SameAssembly s t := by
  cases hd : decode r with
  | error e => rw [step_of_decode_error hin hd] at h; cases h
  | ok i =>
    rw [step_of_decode hin hd] at h
    obtain ⟨hfeed, hreset⟩ := decode_ne_feed_reset_of_not_fromSource hd hr
    obtain ⟨hsame, _⟩ := otherInstructionsLeaveTheAssemblerAlone i { s with input := rest } t hfeed hreset h
    exact hsame

/-- Settles O7, by the fixed point and by the frame of the other instructions. -/
theorem waitingChangesNothing : Obligations.WaitingChangesNothing :=
  ⟨fun _ n hin => run_of_input_nil hin n, fun _ _ _ _ => step_sameAssembly_of_not_fromSource⟩

end Sys2Proof.Machine
end
